-- ==== Sys2Proof/Word.lean ====
section
/-! DEFINITION. The widths of MURMIX (00_scope.md R7, R9): every value is unsigned. -/

namespace Sys2Proof

/-- A KMEM byte, `u8`. -/
abbrev Byte := BitVec 8

/-- A control register or a command word, `u32`. -/
abbrev Word := BitVec 32

/-- SEED, DATA, ACC and every M64 value, `u64`. -/
abbrev DWord := BitVec 64

end Sys2Proof
end

