-- ==== Sys2Proof/Syntax.lean ====
section
/-! DEFINITION. The commands of MURMIX, one constructor per row of spec/opcode_table.json
(30_encoding.md R75). Every operand but the tail count is implicit (R73). -/

namespace Sys2Proof

/-- A command. `n` is the tail byte count N of 30_encoding.md R72. -/
inductive Instr where
  | nop
  | init32
  | word32
  | tail32 (n : Nat)
  | final32
  | hash32
  | init64
  | word64
  | tail64 (n : Nat)
  | final64
  | hash64
  deriving DecidableEq, Repr

end Sys2Proof
end

