-- ==== Sys2Proof/WellFormed.lean ====
section
/-! DEFINITION. Which commands have a command word (30_encoding.md R72, R80): a tail count out of range is
an assembly error, not an encodable word. -/

namespace Sys2Proof

/-- TAIL32 admits N = 0 to 3 and TAIL64 admits N = 0 to 7; every other command has no operand to check. -/
def Instr.wellFormed : Instr → Bool
  | .nop | .init32 | .word32 | .final32 | .hash32 => true
  | .init64 | .word64 | .final64 | .hash64 => true
  | .tail32 n => decide (n ≤ 3)
  | .tail64 n => decide (n ≤ 7)

end Sys2Proof
end

