-- ==== Sys2Proof/Decode.lean ====
section
/-! DEFINITION. Decoding and encoding of command words (30_encoding.md R70 to R80, R84). -/

namespace Sys2Proof

/-- Why a command word is ILLEGAL: the five cases of 30_encoding.md R77. The hardware tells them apart
nowhere (every one raises ILLEGAL_CMD); the names serve the reader (log entry 13). -/
inductive IllegalWord where
  /-- R77 (a): Z = v[31:8] is not 0. -/
  | reservedBits
  /-- R77 (b): OP is 0x6, 0x7, 0x8, 0xE or 0xF. -/
  | reservedOperation
  /-- R77 (c): N is not 0 and OP is not a TAIL. -/
  | countWithoutTail
  /-- R77 (d): TAIL32 with N >= 4. -/
  | tail32Count
  /-- R77 (e): TAIL64 with N >= 8. -/
  | tail64Count
  deriving DecidableEq, Repr

/-- The field Z = v[31:8] (R71). -/
def fieldZ (v : Word) : BitVec 24 := v.extractLsb' 8 24

/-- The field N = v[7:4] (R71), the only immediate, taken as an unsigned count (R72). -/
def fieldN (v : Word) : BitVec 4 := v.extractLsb' 4 4

/-- The operation digit OP = v[3:0] = W : F (R71, R74). -/
def fieldOp (v : Word) : BitVec 4 := v.extractLsb' 0 4

/-- One row of the decode table of R75: it matches v when `(v & mask) = pattern`; `build` gives the command
from the count field N. -/
structure OpcodeRow where
  mnemonic : String
  pattern  : Word
  mask     : Word
  build    : Nat → Instr

/-- A row matches a word (R75). -/
def OpcodeRow.matchesWord (r : OpcodeRow) (v : Word) : Bool := v &&& r.mask == r.pattern

/-- The decode table of R75, in its order. -/
def opcodeRows : List OpcodeRow :=
  [ ⟨"NOP",     0x00000000, 0xFFFFFFFF, fun _ => .nop⟩,
    ⟨"INIT32",  0x00000001, 0xFFFFFFFF, fun _ => .init32⟩,
    ⟨"WORD32",  0x00000002, 0xFFFFFFFF, fun _ => .word32⟩,
    ⟨"TAIL32",  0x00000003, 0xFFFFFFCF, fun n => .tail32 n⟩,
    ⟨"FINAL32", 0x00000004, 0xFFFFFFFF, fun _ => .final32⟩,
    ⟨"HASH32",  0x00000005, 0xFFFFFFFF, fun _ => .hash32⟩,
    ⟨"INIT64",  0x00000009, 0xFFFFFFFF, fun _ => .init64⟩,
    ⟨"WORD64",  0x0000000A, 0xFFFFFFFF, fun _ => .word64⟩,
    ⟨"TAIL64",  0x0000000B, 0xFFFFFF8F, fun n => .tail64 n⟩,
    ⟨"FINAL64", 0x0000000C, 0xFFFFFFFF, fun _ => .final64⟩,
    ⟨"HASH64",  0x0000000D, 0xFFFFFFFF, fun _ => .hash64⟩ ]

/-- The case of R77 an undecodable word falls under. -/
def illegalReason (v : Word) : IllegalWord :=
  if fieldZ v ≠ 0 then .reservedBits
  else if fieldOp v = 0x3 then .tail32Count
  else if fieldOp v = 0xB then .tail64Count
  else if fieldOp v ∈ [0x6, 0x7, 0x8, 0xE, 0xF] then .reservedOperation
  else .countWithoutTail

/-- `Decode(v)` (R75, R76): total on the 2^32 command words. -/
def decode (v : Word) : Except IllegalWord Instr :=
  match opcodeRows.find? (fun r => r.matchesWord v) with
  | some r => .ok (r.build (fieldN v).toNat)
  | none => .error (illegalReason v)

/-- The command word of a well-formed command (R75, R80: `TAIL32 n` is `0x03 | (n << 4)`, `TAIL64 n` is
`0x0B | (n << 4)`). -/
def encode : Instr → Word
  | .nop      => 0x00000000
  | .init32   => 0x00000001
  | .word32   => 0x00000002
  | .tail32 n => 0x00000003 ||| (BitVec.ofNat 32 n <<< 4)
  | .final32  => 0x00000004
  | .hash32   => 0x00000005
  | .init64   => 0x00000009
  | .word64   => 0x0000000A
  | .tail64 n => 0x0000000B ||| (BitVec.ofNat 32 n <<< 4)
  | .final64  => 0x0000000C
  | .hash64   => 0x0000000D

/-- The assembler of R80: a count out of range is an assembly error. -/
def assemble (i : Instr) : Option Word := if i.wellFormed then some (encode i) else none

/-- The 32-bit command word that the host's harness numbers as `w` with `nbits` bits; bits above `nbits` are 0. -/
def tableWord (nbits w : Nat) : Word := BitVec.ofNat 32 (w % 2 ^ nbits)

/-- The command this decoder reads from a table word: every command is one 32-bit word (R70). -/
def decodeTableWord (nbits w : Nat) : Option Instr :=
  if nbits ≤ 32 then (decode (tableWord nbits w)).toOption else none

end Sys2Proof
end

