-- ==== Sys2Proof/Config.lean ====
section
/-! DEFINITION. What the spec leaves to the platform or leaves free. Every constant here is opaque and
has no body, so no proof can see its value. -/

namespace Sys2Proof.Config

/-- Drawn platform parameter from which `kmemSize` is made (00_scope.md R6: OPEN, a model argument). -/
opaque kmemLastAddress : BitVec 32

/-- KMEM_SIZE of the machine that `State.reset` describes: some number from 1 to 2^32 (00_scope.md R6,
20_memory.md R51). The step never reads it: a state's memory carries its own size (log entry 1). -/
def kmemSize : Nat := kmemLastAddress.toNat + 1

/-- `anyvalue_32` (00_scope.md R14): the n-th draw of 32 free bits (log entry 3). -/
opaque anyValue32 : Nat → BitVec 32

/-- `anyvalue_64` (00_scope.md R14): the n-th draw of 64 free bits (log entry 3). -/
opaque anyValue64 : Nat → BitVec 64

/-- The n-th draw of the whole KMEM contents at power-on (70_reset_and_hazards.md R171): one free number
whose byte number `a`, counted from the least significant, is the `anyvalue_8` of address `a` (log entry 2). -/
opaque powerOnImage : Nat → Nat

end Sys2Proof.Config
end

