-- ==== Sys2Proof/Machine/State.lean ====
section
/-! DEFINITION. The state of the machine: the block's architectural and hidden state (10_state.md R20 to R35,
20_memory.md R51) and, beside it, the inputs of its run as plain data: the host's remaining transactions
(30_encoding.md R81 to R83), the order in which the agents move (20_memory.md R61) and what the host has
read so far (40_command.md R103). -/

namespace Sys2Proof.Machine

/-- The two datapaths (00_scope.md R2) and PEND_WIDTH's two values (10_state.md R34): 32 and 64. -/
inductive Width where
  | m32
  | m64
  deriving DecidableEq, Repr

/-- The errors of 60_exceptions.md R151, the non-zero values STATUS.ERRCODE takes. -/
inductive ErrorCode where
  | illegalCmd
  | range
  | overrun
  deriving DecidableEq, Repr

/-- The registers of the 64-byte window (10_state.md R22); `reserved` stands for offsets 0x28 to 0x3C (R30). -/
inductive Csr where
  | cmd
  | status
  | seedLo
  | seedHi
  | len
  | addr
  | dataLo
  | dataHi
  | accLo
  | accHi
  | reserved
  deriving DecidableEq, Repr

/-- The widths of register access the interface does not admit (20_memory.md R56). -/
inductive OtherWidth where
  | w8
  | w16
  | w64
  deriving DecidableEq, Repr

/-- One action of the host: the transactions of 30_encoding.md R83, the polling loop of R82 (b), and the accesses
of the wrong width, which 20_memory.md R56 says the model refuses. Offsets count from CSR_BASE. -/
inductive HostAction where
  /-- (W, offset, v): a 32-bit control-register write. -/
  | csrWrite (offset : Nat) (v : Word)
  /-- (R, offset, -): a 32-bit control-register read. -/
  | csrRead (offset : Nat)
  /-- A control-register access that is not 32 bits wide. -/
  | csrOtherWidth (width : OtherWidth) (offset : Nat)
  /-- (KW, a, b): `HostKmemWrite(a, b)`. -/
  | kmemWrite (a : Nat) (b : Byte)
  /-- (KR, a, -): `HostKmemRead(a)`. -/
  | kmemRead (a : Nat)
  /-- POLL: read STATUS again and again until a read returns bit 0 = 0. -/
  | poll
  deriving DecidableEq, Repr

/-- A value a host read returned (40_command.md R103). -/
inductive ReadValue where
  | csr (v : Word)
  | kmem (b : Byte)
  deriving DecidableEq, Repr

/-- Who moves next: the host, the engine, or the reset source (10_state.md R20) with a reset or a power-on
(70_reset_and_hazards.md R170, R171). -/
inductive Agent where
  | host
  | engine
  | reset
  | powerOn
  deriving DecidableEq, Repr

/-- KMEM (20_memory.md R51): `size` is KMEM_SIZE; `powerOn` is what the power-on draw left in every byte, as one
number (byte a is bits 8a+7 to 8a); `cells` lists the bytes that differ from it, addresses strictly rising. -/
structure Memory where
  size    : Nat
  powerOn : Nat
  cells   : List Host.Cell
  deriving DecidableEq, Repr

/-- The state. The first group is the control registers (10_state.md R22 to R28), the second the pending command
(R34, R35), then KMEM; the last group is the model's own: inputs of the run, its observation and the draw counter. -/
structure State where
  /-- SEED (R23). -/
  seed : DWord
  /-- LEN (R24). -/
  len : Word
  /-- ADDR (R25). -/
  addr : Word
  /-- DATA (R26). -/
  data : DWord
  /-- ACC (R27). -/
  acc : DWord
  /-- STATUS.BUSY (R28). -/
  busy : Bool
  /-- STATUS.ERR (R28). -/
  err : Bool
  /-- STATUS.ERRCODE (R28). -/
  errCode : BitVec 4
  /-- PEND_RESULT (R34). -/
  pendResult : DWord
  /-- PEND_WIDTH (R34). -/
  pendWidth : Width
  /-- PEND_RANGE (R34): none or (base, length). -/
  pendRange : Option (Nat × Nat)
  /-- PEND_DIRTY (R34, R35). -/
  pendDirty : Bool
  /-- KMEM (R51). -/
  kmem : Memory
  /-- The host actions still to come, in program order (R83); the model's own (log entry 5). -/
  program : List HostAction
  /-- Who moves at the next steps; when it is empty, the engine if it is enabled, else the host (log entry 4). -/
  schedule : List Agent
  /-- The values host reads have returned so far, oldest first (R103); the model's own (log entry 6). -/
  reads : List ReadValue
  /-- How many free values have been drawn; the model's own (log entry 3). -/
  draws : Nat
  deriving DecidableEq, Repr

/-- No constructor: the spec gives MURMIX no fault that stops it. Its three errors are STATUS records after which
the machine goes on (60_exceptions.md R150, R157), so a step never answers a fault (log entry 17). -/
inductive Fault where
  deriving DecidableEq, Repr

/-- What the model has no step for. All but the first stand for host actions that the spec says the model refuses
(93_implementation_defined.md Part 1); each is safe, since no claim follows about a run that makes one. -/
inductive Refusal where
  /-- Raised by no arm now: an instruction without a meaning. Safe. -/
  | notModelled (mnemonic : String)
  /-- Raised by a register access of 8, 16 or 64 bits (20_memory.md R56). Safe. -/
  | csrWidth
  /-- Raised by a register access at an offset that is no multiple of 4 (20_memory.md R56). Safe. -/
  | csrMisaligned
  /-- Raised by a register access outside the 64-byte window (10_state.md R30): the platform's. Safe. -/
  | outsideWindow
  /-- Raised by a KMEM access at or beyond KMEM_SIZE (20_memory.md R52). Safe. -/
  | kmemBeyondSize
  deriving DecidableEq, Repr

/-- The machine right after power-on reset (70_reset_and_hazards.md R170, R171): every register 0, BUSY = 0, nothing
pending, each KMEM byte a free draw; no host action placed. One draw is spent, on KMEM's contents. -/
def State.reset : State where
  seed := 0
  len := 0
  addr := 0
  data := 0
  acc := 0
  busy := false
  err := false
  errCode := 0
  pendResult := 0
  pendWidth := .m32
  pendRange := none
  pendDirty := false
  kmem := { size := Config.kmemSize, powerOn := Config.powerOnImage 0, cells := [] }
  program := []
  schedule := []
  reads := []
  draws := 1

end Sys2Proof.Machine
end

