-- ==== Sys2Proof/Machine/Ops.lean ====
section
/-! DEFINITION. The shared operations: halves and bytes of 64-bit values, KMEM, raising an error, accepting a
command, completing it, reset. -/

namespace Sys2Proof.Machine

/-! ### Halves and bytes (00_scope.md R11, R12, 20_memory.md R54) -/

/-- Bits 31:0 of a 64-bit register, its `_LO` half. -/
def lowHalf (x : DWord) : Word := x.extractLsb' 0 32

/-- Bits 63:32 of a 64-bit register, its `_HI` half. -/
def highHalf (x : DWord) : Word := x.extractLsb' 32 32

/-- `hi : lo`, hi in the upper bits (R11). -/
def joinHalves (hi lo : Word) : DWord := hi ++ lo

/-- `zext_64` of a 32-bit value (R11). -/
def zext64 (x : Word) : DWord := x.setWidth 64

/-! ### KMEM (20_memory.md R50 to R55) -/

/-- What an address that `cells` does not list reads as: its byte of the power-on draw (R51). -/
def Memory.unlisted (m : Memory) (a : Nat) : Byte := BitVec.ofNat 8 (m.powerOn >>> (8 * a))

/-- The byte a cell list gives an address. -/
def findByte : List Host.Cell → Nat → Option Byte
  | [], _ => none
  | c :: rest, a => if c.1 = a then some c.2 else findByte rest a

/-- A cell list without the cell of an address. -/
def eraseCell : List Host.Cell → Nat → List Host.Cell
  | [], _ => []
  | c :: rest, a => if c.1 = a then rest else c :: eraseCell rest a

/-- A rising cell list with the cell of an address set. -/
def putCell : List Host.Cell → Nat → Byte → List Host.Cell
  | [], a, b => [(a, b)]
  | c :: rest, a, b =>
    if a < c.1 then (a, b) :: c :: rest
    else if c.1 = a then (a, b) :: rest
    else c :: putCell rest a b

/-- `KMEM[a]` (00_scope.md R13). -/
def Memory.read (m : Memory) (a : Nat) : Byte := (findByte m.cells a).getD (m.unlisted a)

/-- `KMEM[a] <- b` (R52), keeping the canonical form: a byte equal to the power-on draw is not listed. -/
def Memory.write (m : Memory) (a : Nat) (b : Byte) : Memory :=
  { m with cells := if b = m.unlisted a then eraseCell m.cells a else putCell m.cells a b }

/-- The canonical form: KMEM_SIZE is 1 to 2^32 (00_scope.md R6); cells rise strictly, lie inside KMEM and list no
byte equal to what the address reads as unlisted. -/
abbrev Memory.wf (m : Memory) : Prop :=
  1 ≤ m.size ∧ m.size ≤ 2 ^ 32 ∧ m.cells.Pairwise (fun p q => p.1 < q.1) ∧
    ∀ c ∈ m.cells, c.1 < m.size ∧ c.2 ≠ m.unlisted c.1

/-- `MemRead(a, n)` (R53): the sum over j of `zext_64(KMEM[a + j]) << (8*j)`, so the byte at the lowest address is
the least significant; any a, aligned or not (R55); 0 for n = 0. -/
def memRead (m : Memory) (a : Nat) : Nat → DWord
  | 0 => 0
  | n + 1 => memRead m a n + ((m.read (a + n)).setWidth 64 <<< (8 * n))

/-- The 4-byte word at an address, a u32. -/
def memRead32 (m : Memory) (a n : Nat) : Word := lowHalf (memRead m a n)

/-! ### Errors (60_exceptions.md R151 to R155): what MURMIX has in place of exceptions -/

/-- The code of an error in STATUS.ERRCODE (R151). -/
def ErrorCode.code : ErrorCode → BitVec 4
  | .illegalCmd => 1
  | .range => 2
  | .overrun => 3

/-- `raise Error(code)` (R152): the first code since the last clear is kept, ERR becomes 1, nothing else changes.
Nothing is saved and control goes nowhere (R150, R159), so there is no return either (R160). -/
def raiseError (e : ErrorCode) (s : State) : State :=
  { s with errCode := if s.err then s.errCode else e.code, err := true }

/-- The recovery from an error (R155): ERR and ERRCODE become 0. -/
def clearError (s : State) : State := { s with err := false, errCode := 0 }

/-! ### Issue and completion (40_command.md R90, R93) -/

/-- The last four lines of R90: the accepted command's result, width and range are latched and BUSY is set. -/
def accept (width : Width) (range : Option (Nat × Nat)) (result : DWord) (s : State) : State :=
  { s with pendResult := result, pendWidth := width, pendRange := range, pendDirty := false, busy := true }

/-- A completion that leaves `result` in ACC (R93): BUSY becomes 0 and no other register changes. -/
def finish (result : DWord) (s : State) : State := { s with acc := result, busy := false }

/-- A completion of a dirtied command (R93): ACC is a free draw of the command's width, its upper half 0 for M32. -/
def finishDrawn (s : State) : State :=
  { finish (match s.pendWidth with
      | .m32 => zext64 (Config.anyValue32 s.draws)
      | .m64 => Config.anyValue64 s.draws) s with draws := s.draws + 1 }

/-- The engine's one step, enabled exactly when BUSY = 1 (R93); a turn of the disabled engine does nothing. -/
def engineStep (s : State) : State :=
  if s.busy then
    if s.pendDirty then finishDrawn s else finish s.pendResult s
  else s

/-! ### The host's KMEM port (20_memory.md R52, 10_state.md R35) -/

/-- Does an address lie in the pending command's range? -/
def inRange (range : Option (Nat × Nat)) (a : Nat) : Bool :=
  match range with
  | none => false
  | some (base, length) => decide (base ≤ a) && decide (a < base + length)

/-- R35: a write inside the range of a pending command sets PEND_DIRTY; nothing else does. -/
def noteDirty (a : Nat) (s : State) : State :=
  { s with pendDirty := s.pendDirty || (s.busy && inRange s.pendRange a) }

/-- `HostKmemWrite(a, b)` (R52); beyond KMEM_SIZE the model refuses it. -/
def hostKmemWrite (a : Nat) (b : Byte) (s : State) : Host.Outcome State Fault Refusal :=
  if a < s.kmem.size then .next (noteDirty a { s with kmem := s.kmem.write a b })
  else .refused .kmemBeyondSize

/-- A host read's value joins the observation (40_command.md R103). -/
def noteRead (v : ReadValue) (s : State) : State := { s with reads := s.reads ++ [v] }

/-- `HostKmemRead(a)` (R52): returns `KMEM[a]` and changes nothing. -/
def hostKmemRead (a : Nat) (s : State) : Host.Outcome State Fault Refusal :=
  if a < s.kmem.size then .next (noteRead (.kmem (s.kmem.read a)) s)
  else .refused .kmemBeyondSize

/-! ### Reset and power-on (70_reset_and_hazards.md R170, R171) -/

/-- Reset (R170): the block's registers and pending state; KMEM is not changed, and the host is not the block's. -/
def resetBlock (s : State) : State :=
  { s with
    seed := 0, len := 0, addr := 0, data := 0, acc := 0
    busy := false, err := false, errCode := 0
    pendResult := 0, pendWidth := .m32, pendRange := none, pendDirty := false }

/-- Power-on (R171): a reset from a state in which every KMEM byte is a fresh free draw. -/
def powerOnBlock (s : State) : State :=
  { resetBlock s with
    kmem := { size := s.kmem.size, powerOn := Config.powerOnImage s.draws, cells := [] }
    draws := s.draws + 1 }

end Sys2Proof.Machine
end

