-- ==== Sys2Proof/Machine/Operands.lean ====
section
/-! DEFINITION. The implicit operands of the commands (30_encoding.md R73): every one is read from the control
registers as they are at issue (40_command.md R92). -/

namespace Sys2Proof.Machine

/-- SEED[31:0], the seed of M32 (10_state.md R23). -/
def seed32 (s : State) : Word := lowHalf s.seed

/-- DATA[31:0], the word or tail bytes of M32 (10_state.md R26). -/
def data32 (s : State) : Word := lowHalf s.data

/-- ACC[31:0], the accumulator of M32 (10_state.md R27). -/
def acc32 (s : State) : Word := lowHalf s.acc

/-- ADDR as a natural number (10_state.md R25). -/
def bufferBase (s : State) : Nat := s.addr.toNat

/-- LEN as a natural number (10_state.md R24). -/
def bufferLength (s : State) : Nat := s.len.toNat

/-- The range check of R90: exact natural numbers, and LEN = 0 passes whatever ADDR holds. -/
def bufferOutOfRange (s : State) : Bool :=
  decide (bufferLength s ≠ 0) && decide (s.kmem.size < bufferBase s + bufferLength s)

/-- PEND_RANGE of a HASH command (R90): none for an empty buffer. -/
def bufferRange (s : State) : Option (Nat × Nat) :=
  if bufferLength s = 0 then none else some (bufferBase s, bufferLength s)

/-- Issue of a command that reads no KMEM (R90): OVERRUN while BUSY = 1, else the command is accepted with the result
its rule gives at this write. -/
def issue (width : Width) (result : DWord) (s : State) : Host.Outcome State Fault Refusal :=
  if s.busy then .next (raiseError .overrun s) else .next (accept width none result s)

/-- Issue of a HASH command (R90): OVERRUN first, then RANGE, else accepted. -/
def issueHash (width : Width) (result : DWord) (s : State) : Host.Outcome State Fault Refusal :=
  if s.busy then .next (raiseError .overrun s)
  else if bufferOutOfRange s then .next (raiseError .range s)
  else .next (accept width (bufferRange s) result s)

/-- A CMD write of an ILLEGAL word (R90): OVERRUN while BUSY = 1, else ILLEGAL_CMD; nothing is executed (R76). -/
def issueIllegal (s : State) : Host.Outcome State Fault Refusal :=
  if s.busy then .next (raiseError .overrun s) else .next (raiseError .illegalCmd s)

end Sys2Proof.Machine
end

