-- ==== Sys2Proof/Machine/Mix32.lean ====
section
/-! DEFINITION. M32, the 32-bit mixer (41_mix32.md): its datapath functions (R110 to R116) and its five commands
(R117 to R121). -/

namespace Sys2Proof.Machine

/-- `M32_M` (R110). -/
def m32M : Word := 0x5bd1e995

/-- `M32_R` (R110). -/
def m32R : Nat := 24

/-- `M32_F1` (R110). -/
def m32F1 : Nat := 13

/-- `M32_F2` (R110). -/
def m32F2 : Nat := 15

/-- The word avalanche (R111). -/
def kmix32 (k : Word) : Word :=
  let a := k * m32M
  let b := a ^^^ (a >>> m32R)
  b * m32M

/-- The fold (R112): the accumulator is multiplied first, then the avalanched word is XORed in. -/
def fold32 (h k : Word) : Word := (h * m32M) ^^^ kmix32 k

/-- Byte j of a u32 at its own place, bits 8j+7 to 8j (R113). -/
def placedByte32 (w : Word) (j : Nat) : Word := (w.extractLsb' (8 * j) 8).setWidth 32 <<< (8 * j)

/-- The tail handler for n = 0 to 3 (R113): one multiply for the whole tail. -/
def tail32 (h w : Word) (n : Nat) : Word :=
  if n = 0 then h
  else
    let x := if n = 3 then h ^^^ placedByte32 w 2 else h
    let y := if 2 ≤ n then x ^^^ placedByte32 w 1 else x
    let z := y ^^^ placedByte32 w 0
    z * m32M

/-- The final avalanche (R114). -/
def fmix32 (h : Word) : Word :=
  let a := h ^^^ (h >>> m32F1)
  let b := a * m32M
  b ^^^ (b >>> m32F2)

/-- The initialisation (R115). -/
def init32 (seed len : Word) : Word := seed ^^^ len

/-- The loop of R116 over the first words of the buffer, in address order. -/
def foldWords32 (m : Memory) (a : Nat) (h : Word) : Nat → Word
  | 0 => h
  | i + 1 => fold32 (foldWords32 m a h i) (memRead32 m (a + 4 * i) 4)

/-- The whole-buffer hash, `hash32` of R116. -/
def bufferHash32 (m : Memory) (a : Nat) (len seed : Word) : Word :=
  let nw := len.toNat / 4
  let t := len.toNat % 4
  fmix32 (tail32 (foldWords32 m a (init32 seed len) nw) (memRead32 m (a + 4 * nw) t) t)

/-- INIT32 (R117). -/
def execInit32 (s : State) : Host.Outcome State Fault Refusal :=
  issue .m32 (zext64 (init32 (seed32 s) s.len)) s

/-- WORD32 (R118). -/
def execWord32 (s : State) : Host.Outcome State Fault Refusal :=
  issue .m32 (zext64 (fold32 (acc32 s) (data32 s))) s

/-- TAIL32 n (R119); a count above 3 is no TAIL32 word but ILLEGAL (30_encoding.md R77 (d)). -/
def execTail32 (n : Nat) (s : State) : Host.Outcome State Fault Refusal :=
  if n ≤ 3 then issue .m32 (zext64 (tail32 (acc32 s) (data32 s) n)) s else issueIllegal s

/-- FINAL32 (R120). -/
def execFinal32 (s : State) : Host.Outcome State Fault Refusal :=
  issue .m32 (zext64 (fmix32 (acc32 s))) s

/-- HASH32 (R121). -/
def execHash32 (s : State) : Host.Outcome State Fault Refusal :=
  issueHash .m32 (zext64 (bufferHash32 s.kmem (bufferBase s) s.len (seed32 s))) s

end Sys2Proof.Machine
end

