-- ==== Sys2Proof/Machine/Mix64.lean ====
section
/-! DEFINITION. M64, the 64-bit mixer (42_mix64.md): its datapath functions (R130 to R136) and its five commands
(R137 to R141). -/

namespace Sys2Proof.Machine

/-- `M64_M` (R130). -/
def m64M : DWord := 0xc6a4a7935bd1e995

/-- `M64_R` (R130), used in the word avalanche and twice in the final avalanche. -/
def m64R : Nat := 47

/-- The word avalanche (R131). -/
def kmix64 (k : DWord) : DWord :=
  let a := k * m64M
  let b := a ^^^ (a >>> m64R)
  b * m64M

/-- The fold (R132): the avalanched word is XORed in first and the accumulator multiplied after. -/
def fold64 (h k : DWord) : DWord := (h ^^^ kmix64 k) * m64M

/-- Byte j of a u64 at its own place, bits 8j+7 to 8j (R133). -/
def placedByte64 (w : DWord) (j : Nat) : DWord := (w.extractLsb' (8 * j) 8).setWidth 64 <<< (8 * j)

/-- The fallthrough cases n, n-1, ..., 1 of R133. -/
def xorTail64 (w : DWord) : Nat → DWord → DWord
  | 0, x => x
  | j + 1, x => xorTail64 w j (x ^^^ placedByte64 w j)

/-- The tail handler for n = 0 to 7 (R133): one multiply for the whole tail. -/
def tail64 (h w : DWord) (n : Nat) : DWord := if n = 0 then h else xorTail64 w n h * m64M

/-- The final avalanche (R134). -/
def fmix64 (h : DWord) : DWord :=
  let a := h ^^^ (h >>> m64R)
  let b := a * m64M
  b ^^^ (b >>> m64R)

/-- The initialisation (R135): the length is zero-extended before the multiply. -/
def init64 (seed : DWord) (len : Word) : DWord := seed ^^^ (zext64 len * m64M)

/-- The loop of R136 over the first words of the buffer, in address order. -/
def foldWords64 (m : Memory) (a : Nat) (h : DWord) : Nat → DWord
  | 0 => h
  | i + 1 => fold64 (foldWords64 m a h i) (memRead m (a + 8 * i) 8)

/-- The whole-buffer hash, `hash64` of R136. -/
def bufferHash64 (m : Memory) (a : Nat) (len : Word) (seed : DWord) : DWord :=
  let nw := len.toNat / 8
  let t := len.toNat % 8
  fmix64 (tail64 (foldWords64 m a (init64 seed len) nw) (memRead m (a + 8 * nw) t) t)

/-- INIT64 (R137). -/
def execInit64 (s : State) : Host.Outcome State Fault Refusal :=
  issue .m64 (init64 s.seed s.len) s

/-- WORD64 (R138). -/
def execWord64 (s : State) : Host.Outcome State Fault Refusal :=
  issue .m64 (fold64 s.acc s.data) s

/-- TAIL64 n (R139); a count above 7 is no TAIL64 word but ILLEGAL (30_encoding.md R77 (e)). -/
def execTail64 (n : Nat) (s : State) : Host.Outcome State Fault Refusal :=
  if n ≤ 7 then issue .m64 (tail64 s.acc s.data n) s else issueIllegal s

/-- FINAL64 (R140). -/
def execFinal64 (s : State) : Host.Outcome State Fault Refusal :=
  issue .m64 (fmix64 s.acc) s

/-- HASH64 (R141). -/
def execHash64 (s : State) : Host.Outcome State Fault Refusal :=
  issueHash .m64 (bufferHash64 s.kmem (bufferBase s) s.len s.seed) s

end Sys2Proof.Machine
end

