-- ==== Sys2Proof/Machine/Nop.lean ====
section
/-! DEFINITION. NOP (40_command.md R101). -/

namespace Sys2Proof.Machine

/-- NOP (R101): Exec is ACC at issue; it counts as 64 bits wide (R90). -/
def execNop (s : State) : Host.Outcome State Fault Refusal := issue .m64 s.acc s

end Sys2Proof.Machine
end

