-- ==== Sys2Proof/Machine/Dispatch.lean ====
section
/-! DEFINITION. One meaning per command (40_command.md R102): what a CMD write of the command's word does. -/

namespace Sys2Proof.Machine

def exec (i : Instr) (s : State) : Host.Outcome State Fault Refusal :=
  match i with
  | .nop => Sys2Proof.Machine.execNop s
  | .init32 => Sys2Proof.Machine.execInit32 s
  | .word32 => Sys2Proof.Machine.execWord32 s
  | .tail32 n => Sys2Proof.Machine.execTail32 n s
  | .final32 => Sys2Proof.Machine.execFinal32 s
  | .hash32 => Sys2Proof.Machine.execHash32 s
  | .init64 => Sys2Proof.Machine.execInit64 s
  | .word64 => Sys2Proof.Machine.execWord64 s
  | .tail64 n => Sys2Proof.Machine.execTail64 n s
  | .final64 => Sys2Proof.Machine.execFinal64 s
  | .hash64 => Sys2Proof.Machine.execHash64 s

end Sys2Proof.Machine
end

