-- ==== Sys2Proof/Machine/Flags.lean ====
section
/-! DEFINITION. STATUS as the host reads and writes it (10_state.md R28, 40_command.md R99, R100). The block has no
arithmetic flags (10_state.md R32). -/

namespace Sys2Proof.Machine

/-- A one-bit field as a word. -/
def flagWord (b : Bool) : Word := if b then 1 else 0

/-- The word a read of STATUS returns (R99); every reserved bit reads 0. -/
def statusWord (s : State) : Word :=
  s.errCode.setWidth 32 <<< 4 ||| flagWord s.err <<< 1 ||| flagWord s.busy

/-- A write of STATUS (R100, 60_exceptions.md R155): bit 1 = 1 clears ERR and ERRCODE, every other bit is ignored. -/
def writeStatus (v : Word) (s : State) : State := if v.getLsbD 1 then clearError s else s

end Sys2Proof.Machine
end

