-- ==== Sys2Proof/Machine/HostPort.lean ====
section
/-! DEFINITION. The host's register accesses (40_command.md R90, R95, R98 to R100) and one turn of the host. -/

namespace Sys2Proof.Machine

/-- The offset of a register in the window (10_state.md R22); the first one for the reserved register. -/
def Csr.offset : Csr → Nat
  | .cmd => 0x00
  | .status => 0x04
  | .seedLo => 0x08
  | .seedHi => 0x0C
  | .len => 0x10
  | .addr => 0x14
  | .dataLo => 0x18
  | .dataHi => 0x1C
  | .accLo => 0x20
  | .accHi => 0x24
  | .reserved => 0x28

/-- The register at an aligned offset of the window (10_state.md R22, R30). -/
def csrNamed (offset : Nat) : Csr :=
  match offset with
  | 0x00 => .cmd
  | 0x04 => .status
  | 0x08 => .seedLo
  | 0x0C => .seedHi
  | 0x10 => .len
  | 0x14 => .addr
  | 0x18 => .dataLo
  | 0x1C => .dataHi
  | 0x20 => .accLo
  | 0x24 => .accHi
  | _ => .reserved

/-- The register a 32-bit access reaches: offsets outside the 64-byte window and offsets that are no multiple of 4
are refused (10_state.md R30, 20_memory.md R56). -/
def csrAt (offset : Nat) : Except Refusal Csr :=
  if 0x40 ≤ offset then .error .outsideWindow
  else if offset % 4 ≠ 0 then .error .csrMisaligned
  else .ok (csrNamed offset)

/-- A host write of CMD (R90): while BUSY = 1 the word is discarded undecoded with OVERRUN; otherwise it is decoded
and either rejected or issued. -/
def writeCmd (v : Word) (s : State) : Host.Outcome State Fault Refusal :=
  if s.busy then .next (raiseError .overrun s)
  else
    match decode v with
    | .ok i => exec i s
    | .error _ => issueIllegal s

/-- A host write of a register (R98), BUSY or not; ACC and the reserved offsets ignore it. -/
def writeCsr (r : Csr) (v : Word) (s : State) : Host.Outcome State Fault Refusal :=
  match r with
  | .cmd => writeCmd v s
  | .status => .next (writeStatus v s)
  | .seedLo => .next { s with seed := joinHalves (highHalf s.seed) v }
  | .seedHi => .next { s with seed := joinHalves v (lowHalf s.seed) }
  | .len => .next { s with len := v }
  | .addr => .next { s with addr := v }
  | .dataLo => .next { s with data := joinHalves (highHalf s.data) v }
  | .dataHi => .next { s with data := joinHalves v (lowHalf s.data) }
  | .accLo => .next s
  | .accHi => .next s
  | .reserved => .next s

/-- Does a read of this register draw a free value now (R95)? -/
def readDraws (r : Csr) (s : State) : Bool :=
  match r with
  | .accLo => s.busy
  | .accHi => s.busy
  | .cmd | .status | .seedLo | .seedHi | .len | .addr | .dataLo | .dataHi | .reserved => false

/-- The value a read of a register returns (R99); a free draw for ACC while BUSY = 1 (R95). -/
def readValue (r : Csr) (s : State) : Word :=
  match r with
  | .cmd => 0
  | .status => statusWord s
  | .seedLo => lowHalf s.seed
  | .seedHi => highHalf s.seed
  | .len => s.len
  | .addr => s.addr
  | .dataLo => lowHalf s.data
  | .dataHi => highHalf s.data
  | .accLo => if s.busy then Config.anyValue32 s.draws else lowHalf s.acc
  | .accHi => if s.busy then Config.anyValue32 s.draws else highHalf s.acc
  | .reserved => 0

/-- A host read of a register (R99): it changes nothing of the block; the value joins the observation, and a draw is
counted when the value is a free one. -/
def readCsr (r : Csr) (s : State) : State :=
  { noteRead (.csr (readValue r s)) s with draws := if readDraws r s then s.draws + 1 else s.draws }

/-- POLL (30_encoding.md R82 (b)): one read of STATUS; while it returns bit 0 = 1 the loop goes on. -/
def pollStatus (s : State) : State :=
  if (statusWord s).getLsbD 0 then { readCsr .status s with program := .poll :: s.program }
  else readCsr .status s

/-- One host action (30_encoding.md R83, 20_memory.md R61): atomic. -/
def hostAction (a : HostAction) (s : State) : Host.Outcome State Fault Refusal :=
  match a with
  | .csrWrite offset v =>
    match csrAt offset with
    | .ok r => writeCsr r v s
    | .error e => .refused e
  | .csrRead offset =>
    match csrAt offset with
    | .ok r => .next (readCsr r s)
    | .error e => .refused e
  | .csrOtherWidth _ _ => .refused .csrWidth
  | .kmemWrite addr b => hostKmemWrite addr b s
  | .kmemRead addr => hostKmemRead addr s
  | .poll => .next (pollStatus s)

/-- One turn of the host: its next action, in program order; a host whose program is over does nothing. -/
def hostStep (s : State) : Host.Outcome State Fault Refusal :=
  match s.program with
  | [] => .next s
  | a :: rest => hostAction a { s with program := rest }

end Sys2Proof.Machine
end

