-- ==== Sys2Proof/Machine/Agents.lean ====
section
/-! DEFINITION. The interleaving of the agents' atomic actions (10_state.md R20, 20_memory.md R61,
40_command.md R94). -/

namespace Sys2Proof.Machine

/-- Who moves now: the schedule's first entry; when the schedule is over, the engine while a command is pending
(so that every pending command completes, R94), else the host. -/
def nextAgent (s : State) : Agent :=
  match s.schedule with
  | [] => if s.busy then .engine else .host
  | a :: _ => a

/-- The schedule's first entry is used up. -/
def takeTurn (s : State) : State := { s with schedule := s.schedule.tail }

/-- One move of an agent. -/
def agentMove (a : Agent) (s : State) : Host.Outcome State Fault Refusal :=
  match a with
  | .host => hostStep s
  | .engine => .next (engineStep s)
  | .reset => .next (resetBlock s)
  | .powerOn => .next (powerOnBlock s)

/-- A run is over when the host has performed its last action and BUSY = 0 (R103); what is left of the schedule
decides whether a reset still comes. -/
def runOver (s : State) : Bool := s.program.isEmpty && !s.busy

/-- `s` with the command word `w` as the host's next CMD write and the host next to move (log entry 5). -/
def placeCommand (w : Word) (s : State) : State :=
  { s with program := .csrWrite 0x00 w :: s.program, schedule := .host :: s.schedule }

end Sys2Proof.Machine
end

