-- ==== Sys2Proof/Safety.lean ====
section
/-! DEFINITION. What claims are stated in: the invariants of the state (10_state.md R28, R34, 40_command.md R103), the
interface a host must keep to (20_memory.md R52, R56), the contract it should keep to (70_reset_and_hazards.md R174 to
R176), and the value Exec of a command (40_command.md R102). -/

namespace Sys2Proof.Machine

/-- R28: the legal values of STATUS; ERRCODE is one of 0, 1, 2, 3 and ERR = 0 implies ERRCODE = 0. -/
abbrev StatusLegal (s : State) : Prop := s.errCode.toNat ≤ 3 ∧ (s.err = false → s.errCode = 0)

/-- A range is a non-empty part of a KMEM of this size. -/
def rangeInside (size : Nat) (range : Option (Nat × Nat)) : Bool :=
  match range with
  | none => true
  | some (base, length) => decide (0 < length) && decide (base + length ≤ size)

/-- R34, R35 while BUSY = 1: an M32 result has ACC[63:32] = 0 (R27), the range lies in KMEM, and only a command with a
range is dirty. -/
abbrev PendingLegal (s : State) : Prop :=
  s.busy = true →
    (s.pendWidth = .m32 → highHalf s.pendResult = 0) ∧
    rangeInside s.kmem.size s.pendRange = true ∧
    (s.pendDirty = true → s.pendRange ≠ none)

/-- The invariant of the machine. -/
abbrev State.Inv (s : State) : Prop := s.kmem.wf ∧ StatusLegal s ∧ PendingLegal s

/-- Is a host action inside the interface (20_memory.md R52, R56, 10_state.md R30)? -/
def admitted (size : Nat) : HostAction → Bool
  | .csrWrite offset _ => decide (offset < 0x40) && decide (offset % 4 = 0)
  | .csrRead offset => decide (offset < 0x40) && decide (offset % 4 = 0)
  | .csrOtherWidth _ _ => false
  | .kmemWrite a _ => decide (a < size)
  | .kmemRead a => decide (a < size)
  | .poll => true

/-- The host's next action, when it is the host's turn. -/
def hostTurnAction (s : State) : Option HostAction :=
  if nextAgent s = .host then s.program.head? else none

/-- Does a host action keep the contract of R174 to R176: no ACC read and no CMD write while BUSY = 1, no KMEM write
inside the pending range? That a buffer's bytes were written (R173 (2)) is no part of it. -/
def keepsContract (s : State) : HostAction → Bool
  | .csrWrite offset _ => !(s.busy && decide (offset = 0x00))
  | .csrRead offset => !(s.busy && (decide (offset = 0x20) || decide (offset = 0x24)))
  | .csrOtherWidth _ _ => true
  | .kmemWrite a _ => !(s.busy && inRange s.pendRange a)
  | .kmemRead _ => true
  | .poll => true

/-- `k` steps of a run (R103), ending early where the model has no step. -/
def runFor : Nat → State → Host.Outcome State Fault Refusal
  | 0, s => .next s
  | k + 1, s =>
    match step s with
    | .next t => runFor k t
    | .fault r => .fault r
    | .refused r => .refused r

/-- Exec (R102): the u64 result of an accepted command. -/
def execResult (i : Instr) (s : State) : DWord :=
  match i with
  | .nop => s.acc
  | .init32 => zext64 (init32 (seed32 s) s.len)
  | .word32 => zext64 (fold32 (acc32 s) (data32 s))
  | .tail32 n => zext64 (tail32 (acc32 s) (data32 s) n)
  | .final32 => zext64 (fmix32 (acc32 s))
  | .hash32 => zext64 (bufferHash32 s.kmem (bufferBase s) s.len (seed32 s))
  | .init64 => init64 s.seed s.len
  | .word64 => fold64 s.acc s.data
  | .tail64 n => tail64 s.acc s.data n
  | .final64 => fmix64 s.acc
  | .hash64 => bufferHash64 s.kmem (bufferBase s) s.len s.seed

/-- PEND_WIDTH of a command (R90): NOP counts as 64. -/
def instrWidth : Instr → Width
  | .init32 | .word32 | .tail32 _ | .final32 | .hash32 => .m32
  | .nop | .init64 | .word64 | .tail64 _ | .final64 | .hash64 => .m64

/-- `isHash` of R90. -/
def isHash : Instr → Bool
  | .hash32 | .hash64 => true
  | .nop | .init32 | .word32 | .tail32 _ | .final32 | .init64 | .word64 | .tail64 _ | .final64 => false

/-- PEND_RANGE of a command (R90). -/
def instrRange (i : Instr) (s : State) : Option (Nat × Nat) := if isHash i then bufferRange s else none

/-- The state an accepted command leaves (R90). -/
def issued (i : Instr) (s : State) : State := accept (instrWidth i) (instrRange i s) (execResult i s) s

/-- The state after a command was issued and waited out: the issue and then the completion. -/
def afterCommand (i : Instr) (s : State) : State :=
  match exec i s with
  | .next t => engineStep t
  | .fault _ => s
  | .refused _ => s

end Sys2Proof.Machine
end

