-- ==== Sys2Proof/Certificates/Slice0/Obligations.lean ====
section
/-! DEFINITION. The statements for the provers. Words the statements share stand first, under Sys2Proof.Claims; each
statement's docstring names the rule it formalises. `anyValue32`, `anyValue64` and `powerOnImage` are free values: no
statement rests on a value of theirs. -/

namespace Sys2Proof.Claims

open Sys2Proof.Machine

/-- The last lines of R90, written out: the result, its width and its range are latched and BUSY is set. -/
def latched (w : Width) (range : Option (Nat × Nat)) (x : DWord) (s : State) : State :=
  { s with pendResult := x, pendWidth := w, pendRange := range, pendDirty := false, busy := true }

/-- R152, written out. -/
def errored (code : BitVec 4) (s : State) : State :=
  { s with err := true, errCode := if s.err then s.errCode else code }

/-- From every idle state the command is accepted with the result `f`, and its completion puts `f` in ACC, clears BUSY
and changes nothing else: where and how a command without a KMEM operand completes. -/
def completes (i : Instr) (w : Width) (f : State → DWord) : Prop :=
  ∀ s : State, s.busy = false →
    exec i s = .next (latched w none (f s) s) ∧
      engineStep (latched w none (f s) s) = { latched w none (f s) s with acc := f s, busy := false }

/-- The same for a HASH command, whose buffer is empty or lies in KMEM; its range is latched too. -/
def hashCompletes (i : Instr) (w : Width) (f : State → DWord) : Prop :=
  ∀ s : State, s.busy = false → s.len = 0 ∨ s.addr.toNat + s.len.toNat ≤ s.kmem.size →
    exec i s = .next (latched w (if s.len = 0 then none else some (s.addr.toNat, s.len.toNat)) (f s) s) ∧
      engineStep (latched w (if s.len = 0 then none else some (s.addr.toNat, s.len.toNat)) (f s) s) =
        { latched w (if s.len = 0 then none else some (s.addr.toNat, s.len.toNat)) (f s) s with
          acc := f s, busy := false }

/-- While BUSY = 1 the command only raises OVERRUN (code 3). -/
def overruns (i : Instr) : Prop := ∀ s : State, s.busy = true → exec i s = .next (errored 3 s)

/-- RANGE (code 2) for a HASH command whose buffer is not empty and does not lie in KMEM. -/
def rangeChecked (i : Instr) : Prop :=
  ∀ s : State, s.busy = false → s.len ≠ 0 → s.kmem.size < s.addr.toNat + s.len.toNat →
    exec i s = .next (errored 2 s)

/-- `mask_32(n)` (R11). -/
def mask32 (n : Nat) : Word := BitVec.ofNat 32 (2 ^ (8 * n) - 1)

/-- `mask_64(n)` (R11). -/
def mask64 (n : Nat) : DWord := BitVec.ofNat 64 (2 ^ (8 * n) - 1)

/-- A host read of an offset returns `v` and changes nothing of the block. -/
def readsAs (offset : Nat) (v : Word) (s : State) : Prop :=
  hostAction (.csrRead offset) s = .next { s with reads := s.reads ++ [.csr v] }

/-- A host read of an offset returns a fresh draw and changes nothing of the block. -/
def readsFree (offset : Nat) (s : State) : Prop :=
  hostAction (.csrRead offset) s =
    .next { s with reads := s.reads ++ [.csr (Config.anyValue32 s.draws)], draws := s.draws + 1 }

/-- The state after a register write that goes through. -/
def afterWrite (r : Csr) (v : Word) (s : State) : State :=
  match writeCsr r v s with
  | .next t => t
  | .fault _ => s
  | .refused _ => s

/-- DATA <- w by two register writes. -/
def afterData (w : DWord) (s : State) : State :=
  afterWrite .dataHi (w.extractLsb' 32 32) (afterWrite .dataLo (w.extractLsb' 0 32) s)

/-- The WORD32 commands of R122, each waited out: word i has DATA_LO = MemRead(a + 4i, 4). -/
def feedWords32 (m : Memory) (a : Nat) : Nat → State → State
  | 0, s => s
  | i + 1, s => afterCommand .word32 (afterWrite .dataLo (memRead32 m (a + 4 * i) 4) (feedWords32 m a i s))

/-- The WORD64 commands of R142, each waited out: word i has DATA = MemRead(a + 8i, 8). -/
def feedWords64 (m : Memory) (a : Nat) : Nat → State → State
  | 0, s => s
  | i + 1, s => afterCommand .word64 (afterData (memRead m (a + 8 * i) 8) (feedWords64 m a i s))

/-- The whole sequence of R122 for the operands of `s`. -/
def primitives32 (s : State) : State :=
  let a := s.addr.toNat
  let nw := s.len.toNat / 4
  let t := s.len.toNat % 4
  afterCommand .final32 (afterCommand (.tail32 t) (afterWrite .dataLo (memRead32 s.kmem (a + 4 * nw) t)
    (feedWords32 s.kmem a nw (afterCommand .init32 s))))

/-- The whole sequence of R142 for the operands of `s`. -/
def primitives64 (s : State) : State :=
  let a := s.addr.toNat
  let nw := s.len.toNat / 8
  let t := s.len.toNat % 8
  afterCommand .final64 (afterCommand (.tail64 t) (afterData (memRead s.kmem (a + 8 * nw) t)
    (feedWords64 s.kmem a nw (afterCommand .init64 s))))

end Sys2Proof.Claims

open Sys2Proof Sys2Proof.Machine Sys2Proof.Claims

/-! ### Encoding (30_encoding.md) -/

/-- Decoding the word of a well-formed command gives the command back, whatever its tail count (R75, R80). -/
def Obligations.DecodeOfEncode : Prop := ∀ i : Instr, i.wellFormed = true → decode (encode i) = .ok i

/-- Every word that decodes is the word of the well-formed command it decodes to: one word per command (R75, R84). -/
def Obligations.EncodeOfDecode : Prop :=
  ∀ (v : Word) (i : Instr), decode v = .ok i → i.wellFormed = true ∧ encode i = v

/-- R84: exactly 21 words decode, TAIL32 with four of them, TAIL64 with eight, every other command with one. -/
def Obligations.LegalCommandWords : Prop :=
  (∀ v : Word, (∃ i, decode v = .ok i) ↔
    v ∈ ([0x00, 0x01, 0x02, 0x03, 0x13, 0x23, 0x33, 0x04, 0x05, 0x09, 0x0A, 0x0B, 0x1B, 0x2B, 0x3B, 0x4B, 0x5B, 0x6B,
      0x7B, 0x0C, 0x0D] : List Word)) ∧
  (∀ v : Word, (∃ n, decode v = .ok (.tail32 n)) ↔ v ∈ ([0x03, 0x13, 0x23, 0x33] : List Word)) ∧
  (∀ v : Word, (∃ n, decode v = .ok (.tail64 n)) ↔
    v ∈ ([0x0B, 0x1B, 0x2B, 0x3B, 0x4B, 0x5B, 0x6B, 0x7B] : List Word)) ∧
  (decode 0x00 = .ok .nop ∧ decode 0x01 = .ok .init32 ∧ decode 0x02 = .ok .word32 ∧ decode 0x04 = .ok .final32 ∧
    decode 0x05 = .ok .hash32 ∧ decode 0x09 = .ok .init64 ∧ decode 0x0A = .ok .word64 ∧ decode 0x0C = .ok .final64 ∧
    decode 0x0D = .ok .hash64)

/-- R77: the illegal words, by the fields Z = v[31:8], N = v[7:4] and OP = v[3:0]. -/
def Obligations.IllegalCommandWords : Prop :=
  ∀ v : Word, (∀ i, decode v ≠ .ok i) ↔
    (v.extractLsb' 8 24 ≠ 0 ∨
      v.extractLsb' 0 4 ∈ ([0x6, 0x7, 0x8, 0xE, 0xF] : List (BitVec 4)) ∨
      (v.extractLsb' 4 4 ≠ 0 ∧ v.extractLsb' 0 4 ≠ 0x3 ∧ v.extractLsb' 0 4 ≠ 0xB) ∨
      (v.extractLsb' 0 4 = 0x3 ∧ 4 ≤ (v.extractLsb' 4 4).toNat) ∨
      (v.extractLsb' 0 4 = 0xB ∧ 8 ≤ (v.extractLsb' 4 4).toNat))

/-- R75: the decode table, row by row; a word that matches no row is ILLEGAL, and no word matches two rows. -/
def Obligations.DecodeTableRows : Prop :=
  ∀ v : Word,
    (v &&& 0xFFFFFFFF = 0x00000000 ↔ decode v = .ok .nop) ∧
    (v &&& 0xFFFFFFFF = 0x00000001 ↔ decode v = .ok .init32) ∧
    (v &&& 0xFFFFFFFF = 0x00000002 ↔ decode v = .ok .word32) ∧
    (v &&& 0xFFFFFFCF = 0x00000003 ↔ decode v = .ok (.tail32 (v.extractLsb' 4 4).toNat)) ∧
    (v &&& 0xFFFFFFFF = 0x00000004 ↔ decode v = .ok .final32) ∧
    (v &&& 0xFFFFFFFF = 0x00000005 ↔ decode v = .ok .hash32) ∧
    (v &&& 0xFFFFFFFF = 0x00000009 ↔ decode v = .ok .init64) ∧
    (v &&& 0xFFFFFFFF = 0x0000000A ↔ decode v = .ok .word64) ∧
    (v &&& 0xFFFFFF8F = 0x0000000B ↔ decode v = .ok (.tail64 (v.extractLsb' 4 4).toNat)) ∧
    (v &&& 0xFFFFFFFF = 0x0000000C ↔ decode v = .ok .final64) ∧
    (v &&& 0xFFFFFFFF = 0x0000000D ↔ decode v = .ok .hash64) ∧
    ((∃ e, decode v = .error e) ↔ ∀ r ∈ opcodeRows, v &&& r.mask ≠ r.pattern) ∧
    (∀ r ∈ opcodeRows, ∀ q ∈ opcodeRows, v &&& r.mask = r.pattern → v &&& q.mask = q.pattern →
      r.mnemonic = q.mnemonic)

/-- Words of each family written out bit by bit from the patterns of R75. -/
def Obligations.SampleCommandWords : Prop :=
  decode 0b00000000000000000000000000000000 = .ok .nop ∧
  decode 0b00000000000000000000000000000010 = .ok .word32 ∧
  decode 0b00000000000000000000000000110011 = .ok (.tail32 3) ∧
  decode 0b00000000000000000000000000000101 = .ok .hash32 ∧
  decode 0b00000000000000000000000001011011 = .ok (.tail64 5) ∧
  decode 0b00000000000000000000000000001100 = .ok .final64

/-! ### The step, issue and completion (40_command.md) -/

/-- When it is the host's turn and its next action writes CMD with a word that decodes to `i`, the step is `exec i` of the
state whose schedule and host program have moved past this turn and this action. -/
def Obligations.StepRunsDecodedCommand : Prop :=
  ∀ (s : State) (v : Word) (rest : List HostAction) (i : Instr),
    nextAgent s = .host → s.program = .csrWrite 0x00 v :: rest → decode v = .ok i →
      step s = exec i { s with schedule := s.schedule.tail, program := rest }

/-- The host's harness: the very next step after `withFetchWord` is `exec` of the command its word decodes to, at the
state it started from (the model's choice of log entry 5). -/
def Obligations.StepRunsFetchedWord : Prop :=
  ∀ (s : State) (nbits w : Nat) (i : Instr), decodeTableWord nbits w = some i → step (s.withFetchWord nbits w) = exec i s

/-- R90: a CMD write makes its checks in order (OVERRUN, ILLEGAL_CMD, RANGE), each leaving everything but ERR and ERRCODE
as it was, and latches the accepted command. -/
def Obligations.CmdWriteChecksInOrder : Prop :=
  ∀ (s : State) (v : Word),
    (s.busy = true → hostAction (.csrWrite 0x00 v) s = .next (errored 3 s)) ∧
    (s.busy = false → (∀ i, decode v ≠ .ok i) → hostAction (.csrWrite 0x00 v) s = .next (errored 1 s)) ∧
    (∀ i, s.busy = false → decode v = .ok i → (i = .hash32 ∨ i = .hash64) → s.len ≠ 0 →
      s.kmem.size < s.addr.toNat + s.len.toNat → hostAction (.csrWrite 0x00 v) s = .next (errored 2 s)) ∧
    (∀ i, s.busy = false → decode v = .ok i →
      ((i = .hash32 ∨ i = .hash64) → s.len = 0 ∨ s.addr.toNat + s.len.toNat ≤ s.kmem.size) →
      hostAction (.csrWrite 0x00 v) s = .next
        { s with
          pendResult := execResult i s
          pendWidth := if i ∈ [.init32, .word32, .tail32 (v.extractLsb' 4 4).toNat, .final32, .hash32] then .m32 else .m64
          pendRange := if (i = .hash32 ∨ i = .hash64) ∧ s.len ≠ 0 then some (s.addr.toNat, s.len.toNat) else none
          pendDirty := false
          busy := true })

/-- The engine's step, enabled exactly while BUSY = 1 (R93). R93 gives no step while BUSY = 0: that a turn of the engine
passes then is the model's choice of log entry 4, and the draw counter is that of log entry 3. -/
def Obligations.EngineStepCompletes : Prop :=
  ∀ s : State,
    (s.busy = false → engineStep s = s) ∧
    (s.busy = true → s.pendDirty = false → engineStep s = { s with acc := s.pendResult, busy := false }) ∧
    (s.busy = true → s.pendDirty = true → s.pendWidth = .m32 →
      engineStep s =
        { s with acc := (Config.anyValue32 s.draws).setWidth 64, busy := false, draws := s.draws + 1 }) ∧
    (s.busy = true → s.pendDirty = true → s.pendWidth = .m64 →
      engineStep s = { s with acc := Config.anyValue64 s.draws, busy := false, draws := s.draws + 1 })

/-- R94 in this model: from every state with a pending command, within one step more than the schedule has entries, the
command is no longer pending, or the host made an access the model refuses (the schedule's form is log entry 4). -/
def Obligations.PendingCommandEnds : Prop :=
  ∀ s : State, s.busy = true → ∃ k, k ≤ s.schedule.length + 1 ∧
    ((∃ t : State, runFor k s = .next t ∧ t.busy = false) ∨ ∃ r : Refusal, runFor k s = .refused r)

/-- A CMD write while a command is pending leaves the pending command as it is, and it completes as if the write had not
happened, the record in ERR and ERRCODE apart (R97). For a dirty command this compares two draws at equal counters, which
are equal by the model's choice of log entry 3. -/
def Obligations.OverrunLeavesPending : Prop :=
  ∀ (s : State) (v : Word), s.busy = true → ∃ t, hostAction (.csrWrite 0x00 v) s = .next t ∧
    t.busy = true ∧ t.pendResult = s.pendResult ∧ t.pendWidth = s.pendWidth ∧ t.pendRange = s.pendRange ∧
    t.pendDirty = s.pendDirty ∧ engineStep t = { engineStep s with err := t.err, errCode := t.errCode }

/-- R96 as a frame over all eleven commands: a command's issue and its completion write ACC (at completion), BUSY, ERR and
ERRCODE only where the command was rejected, and the pending state; every register, the host's side and every byte of
KMEM are as before. -/
def Obligations.CommandFrame : Prop :=
  (∀ (i : Instr) (s t : State), exec i s = .next t →
    t.seed = s.seed ∧ t.len = s.len ∧ t.addr = s.addr ∧ t.data = s.data ∧ t.acc = s.acc ∧
    (∀ a, t.kmem.read a = s.kmem.read a) ∧ t.kmem.size = s.kmem.size ∧
    t.program = s.program ∧ t.schedule = s.schedule ∧ t.reads = s.reads ∧ t.draws = s.draws ∧
    (s.busy = false → t.busy = true → t.err = s.err ∧ t.errCode = s.errCode) ∧
    (s.busy = true ∨ t.busy = false → t.busy = s.busy ∧ t.pendResult = s.pendResult ∧ t.pendWidth = s.pendWidth ∧
      t.pendRange = s.pendRange ∧ t.pendDirty = s.pendDirty)) ∧
  (∀ s : State, (engineStep s).seed = s.seed ∧ (engineStep s).len = s.len ∧ (engineStep s).addr = s.addr ∧
    (engineStep s).data = s.data ∧ (engineStep s).err = s.err ∧ (engineStep s).errCode = s.errCode ∧
    (∀ a, (engineStep s).kmem.read a = s.kmem.read a) ∧ (engineStep s).kmem.size = s.kmem.size ∧
    (engineStep s).pendResult = s.pendResult ∧ (engineStep s).pendWidth = s.pendWidth ∧
    (engineStep s).pendRange = s.pendRange ∧ (engineStep s).pendDirty = s.pendDirty ∧
    (engineStep s).program = s.program ∧ (engineStep s).schedule = s.schedule ∧ (engineStep s).reads = s.reads) ∧
  (∀ s : State, s.busy = true → (engineStep s).busy = false ∧
    (s.pendDirty = false → (engineStep s).acc = s.pendResult))

/-- What a pending command will leave in ACC does not change by a host write of an operand register, nor by a KMEM write
outside its range (R92). For a dirty command this compares two draws at equal counters, which are equal by the model's
choice of log entry 3. -/
def Obligations.OperandsLatchedAtIssue : Prop :=
  (∀ (s : State) (r : Csr) (v : Word), s.busy = true →
    r ∈ [Csr.seedLo, Csr.seedHi, Csr.len, Csr.addr, Csr.dataLo, Csr.dataHi] →
    ∃ t, writeCsr r v s = .next t ∧ (engineStep t).acc = (engineStep s).acc ∧ (engineStep t).draws = (engineStep s).draws) ∧
  (∀ (s : State) (a : Nat) (b : Byte), s.busy = true → a < s.kmem.size →
    (∀ base length, s.pendRange = some (base, length) → ¬(base ≤ a ∧ a < base + length)) →
    ∃ t, hostKmemWrite a b s = .next t ∧ (engineStep t).acc = (engineStep s).acc)

/-- Every M32 command reads ACC[31:0] only and its result has ACC[63:32] = 0 (R27). -/
def Obligations.M32UsesLowHalfOfAcc : Prop :=
  ∀ (i : Instr) (s : State) (x : Word), i ∈ [Instr.init32, .word32, .final32, .hash32] ∨ (∃ n, i = .tail32 n) →
    execResult i { s with acc := x ++ s.acc.extractLsb' 0 32 } = execResult i s ∧
      (execResult i s).extractLsb' 32 32 = 0

/-! ### The eleven commands -/

/-- R101: NOP. -/
def Obligations.NopRule : Prop :=
  decode 0x00000000 = .ok .nop ∧ completes .nop .m64 (fun s => s.acc) ∧ overruns .nop ∧
  (∀ s : State, s.busy = false → (afterCommand .nop s).acc = s.acc ∧
    readsFree 0x20 (latched .m64 none s.acc s) ∧ readsFree 0x24 (latched .m64 none s.acc s)) ∧
  (∀ s : State, s.busy = false → s.acc = 0x000000005BD15E36 → s.err = false → s.errCode = 0 →
    (afterCommand .nop s).acc = 0x000000005BD15E36 ∧ statusWord (afterCommand .nop s) = 0x00000000)

/-- R117: INIT32. -/
def Obligations.Init32Rule : Prop :=
  decode 0x00000001 = .ok .init32 ∧
  completes .init32 .m32 (fun s => (s.seed.extractLsb' 0 32 ^^^ s.len).setWidth 64) ∧ overruns .init32 ∧
  (∀ s : State, s.busy = false → s.len = 0 → (afterCommand .init32 s).acc = (s.seed.extractLsb' 0 32).setWidth 64) ∧
  (∀ s : State, s.busy = false → s.seed.extractLsb' 0 32 = s.len → (afterCommand .init32 s).acc = 0) ∧
  (∀ s : State, s.busy = false → s.seed.extractLsb' 0 32 = 0x12345678 → s.len = 5 →
    (afterCommand .init32 s).acc = 0x000000001234567D)

/-- R118: WORD32. -/
def Obligations.Word32Rule : Prop :=
  decode 0x00000002 = .ok .word32 ∧
  completes .word32 .m32 (fun s => (fold32 (s.acc.extractLsb' 0 32) (s.data.extractLsb' 0 32)).setWidth 64) ∧
  overruns .word32 ∧
  kmix32 0 = 0 ∧ (∀ h : Word, fold32 h 0 = h * 0x5bd1e995) ∧ (∀ k : Word, fold32 0 k = kmix32 k) ∧
  (∀ s : State, s.busy = false → s.acc = 0x12345678 → s.data.extractLsb' 0 32 = 0x04030201 →
    (afterCommand .word32 s).acc = 0x00000000ADB9E2B1)

/-- TAIL32 n for every count (R119). A count above 3 has no TAIL32 word; that exec of such a term is OVERRUN or ILLEGAL_CMD
is the model's reading of log entry 9. -/
def Obligations.Tail32Rule : Prop :=
  (∀ n ≤ 3, decode (0x03 ||| BitVec.ofNat 32 n <<< 4) = .ok (.tail32 n) ∧
    completes (.tail32 n) .m32
      (fun s => (tail32 (s.acc.extractLsb' 0 32) (s.data.extractLsb' 0 32) n).setWidth 64)) ∧
  (∀ n, overruns (.tail32 n)) ∧
  (∀ n, 4 ≤ n → n ≤ 15 → ∀ i, decode (0x03 ||| BitVec.ofNat 32 n <<< 4) ≠ .ok i) ∧
  (∀ n, 4 ≤ n → ∀ s : State, s.busy = false → exec (.tail32 n) s = .next (errored 1 s)) ∧
  (∀ s : State, s.busy = false → (afterCommand (.tail32 0) s).acc = (s.acc.extractLsb' 0 32).setWidth 64) ∧
  (∀ n ≤ 3, ∀ h w w' : Word, w &&& mask32 n = w' &&& mask32 n → tail32 h w n = tail32 h w' n) ∧
  (∀ n, 1 ≤ n → n ≤ 3 → ∀ h w : Word, tail32 h w n = (h ^^^ (w &&& mask32 n)) * 0x5bd1e995 ∧
    (h ^^^ (w &&& mask32 n) = 0 → tail32 h w n = 0)) ∧
  (∀ s : State, s.busy = false → s.acc = 0 →
    s.data.extractLsb' 0 32 = 0xAABBCCDD ∨ s.data.extractLsb' 0 32 = 0x00BBCCDD →
    (afterCommand (.tail32 3) s).acc = 0x000000002A3061A1)

/-- R120: FINAL32. -/
def Obligations.Final32Rule : Prop :=
  decode 0x00000004 = .ok .final32 ∧
  completes .final32 .m32 (fun s => (fmix32 (s.acc.extractLsb' 0 32)).setWidth 64) ∧ overruns .final32 ∧
  (∀ s : State, s.busy = false → s.acc = 0 → (afterCommand .final32 s).acc = 0) ∧
  Function.Injective fmix32 ∧ (∃ h : Word, fmix32 (fmix32 h) ≠ h) ∧
  (∀ s : State, s.busy = false → s.acc = 0x00000001 → (afterCommand .final32 s).acc = 0x000000005BD15E36)

/-- R121: HASH32. -/
def Obligations.Hash32Rule : Prop :=
  decode 0x00000005 = .ok .hash32 ∧
  hashCompletes .hash32 .m32
    (fun s => (bufferHash32 s.kmem s.addr.toNat s.len (s.seed.extractLsb' 0 32)).setWidth 64) ∧
  overruns .hash32 ∧ rangeChecked .hash32 ∧
  (∀ (s : State) (a : Nat) (b : Byte), s.busy = false → s.addr.toNat + s.len.toNat ≤ s.kmem.size →
    s.addr.toNat ≤ a → a < s.addr.toNat + s.len.toNat →
    ∃ t u, exec .hash32 s = .next t ∧ hostKmemWrite a b t = .next u ∧ u.err = s.err ∧
      (engineStep u).acc = (Config.anyValue32 u.draws).setWidth 64) ∧
  (∀ (m : Memory) (a : Nat) (seed : Word), bufferHash32 m a 0 seed = fmix32 seed) ∧
  (∀ (m : Memory) (a : Nat) (len seed : Word), len.toNat < 4 →
    bufferHash32 m a len seed = fmix32 (tail32 (init32 seed len) (memRead32 m a len.toNat) len.toNat)) ∧
  (∀ (m : Memory) (a : Nat) (len seed : Word), len.toNat % 4 = 0 →
    bufferHash32 m a len seed = fmix32 (foldWords32 m a (init32 seed len) (len.toNat / 4))) ∧
  (∀ (m : Memory) (a : Nat), bufferHash32 m a 0 0 = 0 ∧ (m.read a = 0x01 → bufferHash32 m a 1 0 = 0)) ∧
  (∀ (m : Memory) (a : Nat), m.read a = 0x01 → m.read (a + 1) = 0x02 → m.read (a + 2) = 0x03 → m.read (a + 3) = 0x04 →
    m.read (a + 4) = 0x05 → bufferHash32 m a 5 0 = 0xF6E6E31E)

/-- R137: INIT64. -/
def Obligations.Init64Rule : Prop :=
  decode 0x00000009 = .ok .init64 ∧
  completes .init64 .m64 (fun s => s.seed ^^^ (s.len.setWidth 64 * 0xc6a4a7935bd1e995)) ∧ overruns .init64 ∧
  (∀ s : State, s.busy = false → s.len = 0 → (afterCommand .init64 s).acc = s.seed) ∧
  (∀ s : State, s.busy = false → s.len = 1 → s.seed = 0 → (afterCommand .init64 s).acc = 0xc6a4a7935bd1e995) ∧
  (∀ s : State, s.busy = false → s.len = 0xFFFFFFFF → s.seed = 0 → (afterCommand .init64 s).acc = 0x952D4201A42E166B) ∧
  (∀ s : State, s.busy = false → s.seed = 0x0123456789ABCDEF → s.len = 11 →
    (afterCommand .init64 s).acc = 0x883076337BAEC488)

/-- R138: WORD64. -/
def Obligations.Word64Rule : Prop :=
  decode 0x0000000A = .ok .word64 ∧ completes .word64 .m64 (fun s => fold64 s.acc s.data) ∧ overruns .word64 ∧
  (∀ h : DWord, fold64 h 0 = h * 0xc6a4a7935bd1e995) ∧
  (∀ k : DWord, fold64 0 k = kmix64 k * 0xc6a4a7935bd1e995) ∧
  (∀ s : State, s.busy = false → s.acc = 0 → s.data = 1 → (afterCommand .word64 s).acc = 0xBBDDCB5AB56CA2FC) ∧
  (∀ s : State, s.busy = false → s.acc = 1 → s.data = 0 → (afterCommand .word64 s).acc = 0xC6A4A7935BD1E995)

/-- TAIL64 n for every count (R139). A count above 7 has no TAIL64 word; that exec of such a term is OVERRUN or ILLEGAL_CMD
is the model's reading of log entry 9. -/
def Obligations.Tail64Rule : Prop :=
  (∀ n ≤ 7, decode (0x0B ||| BitVec.ofNat 32 n <<< 4) = .ok (.tail64 n) ∧
    completes (.tail64 n) .m64 (fun s => tail64 s.acc s.data n)) ∧
  (∀ n, overruns (.tail64 n)) ∧
  (∀ n, 8 ≤ n → n ≤ 15 → ∀ i, decode (0x0B ||| BitVec.ofNat 32 n <<< 4) ≠ .ok i) ∧
  (∀ n, 8 ≤ n → ∀ s : State, s.busy = false → exec (.tail64 n) s = .next (errored 1 s)) ∧
  (∀ s : State, s.busy = false → (afterCommand (.tail64 0) s).acc = s.acc) ∧
  (∀ n ≤ 7, ∀ h w w' : DWord, w &&& mask64 n = w' &&& mask64 n → tail64 h w n = tail64 h w' n) ∧
  (∀ n, 1 ≤ n → n ≤ 7 → ∀ h w : DWord, tail64 h w n = (h ^^^ (w &&& mask64 n)) * 0xc6a4a7935bd1e995) ∧
  (∀ s : State, s.busy = false → s.acc = 0 → s.data = 0x1122334455667788 ∨ s.data = 0x0022334455667788 →
    (afterCommand (.tail64 7) s).acc = 0xFEA688BCE5765A28)

/-- R140: FINAL64. -/
def Obligations.Final64Rule : Prop :=
  decode 0x0000000C = .ok .final64 ∧ completes .final64 .m64 (fun s => fmix64 s.acc) ∧ overruns .final64 ∧
  (∀ s : State, s.busy = false → s.acc = 0 → (afterCommand .final64 s).acc = 0) ∧ Function.Bijective fmix64 ∧
  (∀ s : State, s.busy = false → s.acc = 1 → (afterCommand .final64 s).acc = 0xC6A4A7935BD064DC)

/-- R141: HASH64. -/
def Obligations.Hash64Rule : Prop :=
  decode 0x0000000D = .ok .hash64 ∧
  hashCompletes .hash64 .m64 (fun s => bufferHash64 s.kmem s.addr.toNat s.len s.seed) ∧
  overruns .hash64 ∧ rangeChecked .hash64 ∧
  (∀ (s : State) (a : Nat) (b : Byte), s.busy = false → s.addr.toNat + s.len.toNat ≤ s.kmem.size →
    s.addr.toNat ≤ a → a < s.addr.toNat + s.len.toNat →
    ∃ t u, exec .hash64 s = .next t ∧ hostKmemWrite a b t = .next u ∧ u.err = s.err ∧
      (engineStep u).acc = Config.anyValue64 u.draws) ∧
  (∀ (m : Memory) (a : Nat) (seed : DWord), bufferHash64 m a 0 seed = fmix64 seed) ∧
  (∀ (m : Memory) (a : Nat) (len : Word) (seed : DWord), len.toNat < 8 →
    bufferHash64 m a len seed = fmix64 (tail64 (init64 seed len) (memRead m a len.toNat) len.toNat)) ∧
  (∀ (m : Memory) (a : Nat) (len : Word) (seed : DWord), len.toNat % 8 = 0 →
    bufferHash64 m a len seed = fmix64 (foldWords64 m a (init64 seed len) (len.toNat / 8))) ∧
  (∀ (m : Memory) (a : Nat), bufferHash64 m a 0 0 = 0) ∧
  (∀ (m : Memory) (a : Nat), m.read a = 0x01 → m.read (a + 1) = 0x02 → m.read (a + 2) = 0x03 → m.read (a + 3) = 0x04 →
    m.read (a + 4) = 0x05 → bufferHash64 m a 5 0 = 0x44E3D09E0B26E99F)

/-! ### The datapaths (41_mix32.md, 42_mix64.md) -/

/-- R111, R112, R115 and R131, R132, R135: the avalanche, fold and initialisation of both mixers, with the constants of
R110 and R130 as numbers. -/
def Obligations.MixerDatapaths : Prop :=
  (∀ k : Word, kmix32 k = (k * 0x5bd1e995 ^^^ (k * 0x5bd1e995) >>> 24) * 0x5bd1e995) ∧
  (∀ h k : Word, fold32 h k = h * 0x5bd1e995 ^^^ kmix32 k) ∧
  (∀ seed len : Word, init32 seed len = seed ^^^ len) ∧
  (∀ k : DWord, kmix64 k = (k * 0xc6a4a7935bd1e995 ^^^ (k * 0xc6a4a7935bd1e995) >>> 47) * 0xc6a4a7935bd1e995) ∧
  (∀ h k : DWord, fold64 h k = (h ^^^ kmix64 k) * 0xc6a4a7935bd1e995) ∧
  (∀ (seed : DWord) (len : Word), init64 seed len = seed ^^^ len.setWidth 64 * 0xc6a4a7935bd1e995)

/-- R113: the M32 tail handler, case by case and in its masked form. -/
def Obligations.M32TailHandler : Prop :=
  ∀ h w : Word,
    tail32 h w 0 = h ∧
    tail32 h w 1 = (h ^^^ (w.extractLsb' 0 8).setWidth 32) * 0x5bd1e995 ∧
    tail32 h w 2 = (h ^^^ (w.extractLsb' 8 8).setWidth 32 <<< 8 ^^^ (w.extractLsb' 0 8).setWidth 32) * 0x5bd1e995 ∧
    tail32 h w 3 = (h ^^^ (w.extractLsb' 16 8).setWidth 32 <<< 16 ^^^ (w.extractLsb' 8 8).setWidth 32 <<< 8 ^^^
      (w.extractLsb' 0 8).setWidth 32) * 0x5bd1e995 ∧
    ∀ n ≤ 3, tail32 h w n = if n = 0 then h else (h ^^^ (w &&& mask32 n)) * 0x5bd1e995

/-- R133: the M64 tail handler: its fallthrough from byte n-1 down to byte 0, and its masked form. -/
def Obligations.M64TailHandler : Prop :=
  ∀ h w : DWord, ∀ n ≤ 7,
    (tail64 h w n = if n = 0 then h else
      ((List.range n).reverse.foldl (fun x j => x ^^^ (w.extractLsb' (8 * j) 8).setWidth 64 <<< (8 * j)) h) *
        0xc6a4a7935bd1e995) ∧
    (tail64 h w n = if n = 0 then h else (h ^^^ (w &&& mask64 n)) * 0xc6a4a7935bd1e995)

/-- R114: the M32 final avalanche is the given composition of three bijections, so a permutation, and keeps 0. -/
def Obligations.M32FinalPermutation : Prop :=
  (∀ h : Word, fmix32 h = ((h ^^^ h >>> 13) * 0x5bd1e995) ^^^ ((h ^^^ h >>> 13) * 0x5bd1e995) >>> 15) ∧
  Function.Bijective (fun h : Word => h ^^^ h >>> 13) ∧ Function.Bijective (fun h : Word => h * 0x5bd1e995) ∧
  Function.Bijective (fun h : Word => h ^^^ h >>> 15) ∧ Function.Bijective fmix32 ∧ fmix32 0 = 0

/-- R134: the M64 final avalanche likewise. -/
def Obligations.M64FinalPermutation : Prop :=
  (∀ h : DWord, fmix64 h =
    ((h ^^^ h >>> 47) * 0xc6a4a7935bd1e995) ^^^ ((h ^^^ h >>> 47) * 0xc6a4a7935bd1e995) >>> 47) ∧
  Function.Bijective (fun h : DWord => h ^^^ h >>> 47) ∧
  Function.Bijective (fun h : DWord => h * 0xc6a4a7935bd1e995) ∧ Function.Bijective fmix64 ∧ fmix64 0 = 0

/-- R116: the whole-buffer hash as a loop over the buffer's words in address order, then its tail, then the final
avalanche. -/
def Obligations.Hash32IsWordLoop : Prop :=
  ∀ (m : Memory) (a : Nat) (len seed : Word),
    bufferHash32 m a len seed = fmix32 (tail32
      ((List.range (len.toNat / 4)).foldl (fun h i => fold32 h ((memRead m (a + 4 * i) 4).setWidth 32)) (init32 seed len))
      ((memRead m (a + 4 * (len.toNat / 4)) (len.toNat % 4)).setWidth 32) (len.toNat % 4))

/-- R136: the 64-bit whole-buffer hash likewise. -/
def Obligations.Hash64IsWordLoop : Prop :=
  ∀ (m : Memory) (a : Nat) (len : Word) (seed : DWord),
    bufferHash64 m a len seed = fmix64 (tail64
      ((List.range (len.toNat / 8)).foldl (fun h i => fold64 h (memRead m (a + 8 * i) 8)) (init64 seed len))
      (memRead m (a + 8 * (len.toNat / 8)) (len.toNat % 8)) (len.toNat % 8))

/-- R122: HASH32 leaves the same ACC as INIT32, then WORD32 for each word of the buffer, then TAIL32, then FINAL32, each
issued and waited out, from every idle state whose buffer is empty or lies in KMEM. -/
def Obligations.Hash32IsItsPrimitives : Prop :=
  ∀ s : State, s.busy = false → s.len = 0 ∨ s.addr.toNat + s.len.toNat ≤ s.kmem.size →
    (primitives32 s).busy = false ∧ (primitives32 s).acc = (afterCommand .hash32 s).acc

/-- R142: HASH64 likewise. -/
def Obligations.Hash64IsItsPrimitives : Prop :=
  ∀ s : State, s.busy = false → s.len = 0 ∨ s.addr.toNat + s.len.toNat ≤ s.kmem.size →
    (primitives64 s).busy = false ∧ (primitives64 s).acc = (afterCommand .hash64 s).acc

/-- R124: HASH32's result is a function of SEED[31:0], LEN and the LEN bytes at ADDR alone, so a repeated HASH32 gives the
same ACC; and for LEN = 0 different seeds give different digests. -/
def Obligations.Hash32Determinism : Prop :=
  (∀ s t : State, s.seed.extractLsb' 0 32 = t.seed.extractLsb' 0 32 → s.len = t.len →
    (∀ j < s.len.toNat, s.kmem.read (s.addr.toNat + j) = t.kmem.read (t.addr.toNat + j)) →
    execResult .hash32 s = execResult .hash32 t) ∧
  (∀ s : State, s.busy = false → s.len = 0 ∨ s.addr.toNat + s.len.toNat ≤ s.kmem.size →
    (afterCommand .hash32 (afterCommand .hash32 s)).acc = (afterCommand .hash32 s).acc) ∧
  (∀ (m : Memory) (a : Nat) (seed seed' : Word), seed ≠ seed' → bufferHash32 m a 0 seed ≠ bufferHash32 m a 0 seed') ∧
  (∀ (m : Memory) (a : Nat), bufferHash32 m a 0 0 = 0x00000000 ∧ bufferHash32 m a 0 1 = 0x5BD15E36)

/-- HASH64's result is a function of SEED, LEN and the LEN bytes at ADDR alone (R136, R141). -/
def Obligations.Hash64Determinism : Prop :=
  ∀ s t : State, s.seed = t.seed → s.len = t.len →
    (∀ j < s.len.toNat, s.kmem.read (s.addr.toNat + j) = t.kmem.read (t.addr.toNat + j)) →
    execResult .hash64 s = execResult .hash64 t

/-! ### Registers and errors (10_state.md, 40_command.md, 60_exceptions.md) -/

/-- R99: what a host read of each offset returns; a read changes nothing of the block. -/
def Obligations.RegisterReads : Prop :=
  ∀ s : State,
    readsAs 0x00 0x00000000 s ∧
    readsAs 0x04 (s.errCode.setWidth 32 <<< 4 ||| (if s.err then 1#32 else 0#32) <<< 1 ||| (if s.busy then 1#32 else 0#32)) s ∧
    readsAs 0x08 (s.seed.extractLsb' 0 32) s ∧ readsAs 0x0C (s.seed.extractLsb' 32 32) s ∧
    readsAs 0x10 s.len s ∧ readsAs 0x14 s.addr s ∧
    readsAs 0x18 (s.data.extractLsb' 0 32) s ∧ readsAs 0x1C (s.data.extractLsb' 32 32) s ∧
    (s.busy = true → readsFree 0x20 s ∧ readsFree 0x24 s) ∧
    (s.busy = false → readsAs 0x20 (s.acc.extractLsb' 0 32) s ∧ readsAs 0x24 (s.acc.extractLsb' 32 32) s) ∧
    ∀ offset ∈ [0x28, 0x2C, 0x30, 0x34, 0x38, 0x3C], readsAs offset 0x00000000 s

/-- R98: what a host write of each offset but CMD does, BUSY or not. -/
def Obligations.RegisterWrites : Prop :=
  ∀ (s : State) (v : Word),
    hostAction (.csrWrite 0x08 v) s = .next { s with seed := s.seed.extractLsb' 32 32 ++ v } ∧
    hostAction (.csrWrite 0x0C v) s = .next { s with seed := v ++ s.seed.extractLsb' 0 32 } ∧
    hostAction (.csrWrite 0x10 v) s = .next { s with len := v } ∧
    hostAction (.csrWrite 0x14 v) s = .next { s with addr := v } ∧
    hostAction (.csrWrite 0x18 v) s = .next { s with data := s.data.extractLsb' 32 32 ++ v } ∧
    hostAction (.csrWrite 0x1C v) s = .next { s with data := v ++ s.data.extractLsb' 0 32 } ∧
    ∀ offset ∈ [0x20, 0x24, 0x28, 0x2C, 0x30, 0x34, 0x38, 0x3C], hostAction (.csrWrite offset v) s = .next s

/-- R100, R155: a write of STATUS clears ERR and ERRCODE when bit 1 is 1 and changes nothing else, BUSY or not. -/
def Obligations.StatusWriteClearsError : Prop :=
  ∀ (s : State) (v : Word),
    (v.getLsbD 1 = true → hostAction (.csrWrite 0x04 v) s = .next { s with err := false, errCode := 0 }) ∧
    (v.getLsbD 1 = false → hostAction (.csrWrite 0x04 v) s = .next s)

/-- The bits of the STATUS word (R28): BUSY, ERR, ERRCODE, and 0 in every reserved bit. -/
def Obligations.StatusBits : Prop :=
  ∀ s : State,
    (statusWord s).getLsbD 0 = s.busy ∧ (statusWord s).getLsbD 1 = s.err ∧ (statusWord s).extractLsb' 4 4 = s.errCode ∧
    (statusWord s).extractLsb' 2 2 = 0 ∧ (statusWord s).extractLsb' 8 24 = 0

/-- R152: raising an error records its code when ERR was 0, sets ERR, and changes nothing else. -/
def Obligations.RaiseKeepsFirstError : Prop :=
  ∀ (s : State) (e : ErrorCode),
    (s.err = false → raiseError e s =
      { s with err := true, errCode := match e with | .illegalCmd => 1 | .range => 2 | .overrun => 3 }) ∧
    (s.err = true → raiseError e s = { s with err := true })

/-- ERR stays 1 and ERRCODE stays the first code until a STATUS write with bit 1 = 1, a reset or a power-on (R152, R155). -/
def Obligations.ErrorIsSticky : Prop :=
  ∀ s t : State, s.err = true → step s = .next t →
    (t.err = true ∧ t.errCode = s.errCode) ∨ nextAgent s = .reset ∨ nextAgent s = .powerOn ∨
      ∃ v : Word, hostTurnAction s = some (.csrWrite 0x04 v) ∧ v.getLsbD 1 = true

/-- After a CMD write, ERR = 0 proves that its command was accepted (R175). -/
def Obligations.CleanErrorProvesAcceptance : Prop :=
  ∀ (s t : State) (v : Word), hostTurnAction s = some (.csrWrite 0x00 v) → step s = .next t → t.err = false →
    s.busy = false ∧ t.busy = true ∧ ∃ i, decode v = .ok i

/-! ### KMEM (20_memory.md) -/

/-- R52: a host write of KMEM sets its byte and no other, a host read returns the byte and changes nothing, and the model
refuses both at and beyond KMEM_SIZE. -/
def Obligations.HostKmemAccess : Prop :=
  ∀ (s : State) (a : Nat), s.kmem.wf →
    (∀ b : Byte, a < s.kmem.size → ∃ t, hostAction (.kmemWrite a b) s = .next t ∧
      (∀ a', t.kmem.read a' = if a' = a then b else s.kmem.read a') ∧
      { t with kmem := s.kmem, pendDirty := s.pendDirty } = s ∧
      (t.pendDirty = true ↔ s.pendDirty = true ∨
        (s.busy = true ∧ ∃ base length, s.pendRange = some (base, length) ∧ base ≤ a ∧ a < base + length))) ∧
    (a < s.kmem.size →
      hostAction (.kmemRead a) s = .next { s with reads := s.reads ++ [.kmem (s.kmem.read a)] }) ∧
    (∀ b : Byte, s.kmem.size ≤ a → hostAction (.kmemWrite a b) s = .refused .kmemBeyondSize ∧
      hostAction (.kmemRead a) s = .refused .kmemBeyondSize)

/-- R35: nothing but a host KMEM write inside the range of a pending command sets PEND_DIRTY. -/
def Obligations.OnlyRangeWritesDirty : Prop :=
  (∀ (s : State) (a : Nat) (b : Byte) (base length : Nat), s.busy = true → s.pendRange = some (base, length) →
    base ≤ a → a < base + length → a < s.kmem.size →
    ∃ t, hostAction (.kmemWrite a b) s = .next t ∧ t.pendDirty = true) ∧
  (∀ s t : State, s.pendDirty = false → step s = .next t → t.pendDirty = true →
    ∃ a b base length, hostTurnAction s = some (.kmemWrite a b) ∧ s.busy = true ∧ s.pendRange = some (base, length) ∧
      base ≤ a ∧ a < base + length)

/-- R53: MemRead is the sum of its bytes at their places, the lowest address least significant; byte by byte, and 8n bits
wide. And the 32-bit word at an address is the low half of the 64-bit word there (the last sentence of R54). -/
def Obligations.MemReadLittleEndian : Prop :=
  (∀ (m : Memory) (a : Nat), (memRead m a 8).extractLsb' 0 32 = (memRead m a 4).extractLsb' 0 32 ∧
    (memRead m a 8).extractLsb' 32 32 = (memRead m (a + 4) 4).extractLsb' 0 32) ∧
  ∀ (m : Memory) (a n : Nat), n ≤ 8 →
    memRead m a n = (List.range n).foldl (fun x j => x + (m.read (a + j)).setWidth 64 <<< (8 * j)) 0 ∧
    (∀ j < 8, (memRead m a n).extractLsb' (8 * j) 8 = if j < n then m.read (a + j) else 0) ∧
    (memRead m a n).toNat < 2 ^ (8 * n) ∧ memRead m a 0 = 0

/-- The block never writes KMEM: a step changes a byte only by the host's write of that byte or a power-on, and no step
changes KMEM_SIZE (R21, R51). -/
def Obligations.OnlyHostWritesKmem : Prop :=
  ∀ s t : State, s.kmem.wf → step s = .next t →
    t.kmem.size = s.kmem.size ∧
    ∀ a, t.kmem.read a = s.kmem.read a ∨ nextAgent s = .powerOn ∨
      ∃ b, hostTurnAction s = some (.kmemWrite a b) ∧ t.kmem.read a = b

/-- The register accesses outside the interface are refused (R30, R56). The refusals' names, and that the window is tested
before the alignment, are the model's choice of log entry 8. -/
def Obligations.OutsideInterfaceIsRefused : Prop :=
  ∀ (s : State) (offset : Nat) (v : Word) (w : OtherWidth),
    hostAction (.csrOtherWidth w offset) s = .refused .csrWidth ∧
    (offset < 0x40 → offset % 4 ≠ 0 → hostAction (.csrWrite offset v) s = .refused .csrMisaligned ∧
      hostAction (.csrRead offset) s = .refused .csrMisaligned) ∧
    (0x40 ≤ offset → hostAction (.csrWrite offset v) s = .refused .outsideWindow ∧
      hostAction (.csrRead offset) s = .refused .outsideWindow)

/-- A step is refused exactly when it is the host's turn and its next action lies outside the interface; every other step
answers a next state. -/
def Obligations.OnlyInterfaceViolationsStop : Prop :=
  ∀ s : State,
    ((∃ r, step s = .refused r) ↔ ∃ a, hostTurnAction s = some a ∧ admitted s.kmem.size a = false) ∧
    ((∃ t, step s = .next t) ↔ ∀ a, hostTurnAction s = some a → admitted s.kmem.size a = true)

/-! ### Reset (70_reset_and_hazards.md) and the whole machine -/

/-- Reset, in every state; the pending command never completes (R170). That reset leaves the host's actions, the schedule,
the reads and the draw counter alone is the model's reading of log entry 11; that the disabled engine's turn passes is its
choice of log entry 4. -/
def Obligations.ResetRule : Prop :=
  ∀ s : State, ∃ t, agentMove .reset s = .next t ∧
    t = { s with
      seed := 0, len := 0, addr := 0, data := 0, acc := 0
      busy := false, err := false, errCode := 0
      pendResult := 0, pendWidth := .m32, pendRange := none, pendDirty := false } ∧
    engineStep t = t

/-- Power-on (R171): a reset after which every KMEM byte is its byte of a fresh free draw; KMEM_SIZE stays. -/
def Obligations.PowerOnRule : Prop :=
  ∀ s : State, ∃ t, agentMove .powerOn s = .next t ∧
    { t with kmem := s.kmem, draws := s.draws } = resetBlock s ∧ t.kmem.size = s.kmem.size ∧ t.draws = s.draws + 1 ∧
    ∀ a, t.kmem.read a = BitVec.ofNat 8 (Config.powerOnImage s.draws >>> (8 * a))

/-- The state after reset: every register 0, idle, no error, nothing pending (R170, R172); KMEM is in canonical form and
the whole invariant holds. The host has no action there: the model's choice of log entry 5. -/
def Obligations.ResetStateIsIdle : Prop :=
  State.reset.seed = 0 ∧ State.reset.len = 0 ∧ State.reset.addr = 0 ∧ State.reset.data = 0 ∧ State.reset.acc = 0 ∧
  State.reset.busy = false ∧ State.reset.err = false ∧ State.reset.errCode = 0 ∧ State.reset.pendRange = none ∧
  State.reset.kmem.cells = [] ∧ step State.reset = .next State.reset ∧ State.reset.Inv

/-- Once the host has performed its last action, BUSY = 0 (R103) and no turn is left in the schedule, a step changes nothing:
the model's choice of log entry 10. -/
def Obligations.FinishedRunStays : Prop := ∀ s : State, runOver s = true → s.schedule = [] → step s = .next s

/-- POLL (R82 (b)): one read of STATUS; the loop goes on exactly while the word read has bit 0 = 1, that is while BUSY = 1. -/
def Obligations.PollRepeatsWhileBusy : Prop :=
  ∀ s : State, hostAction .poll s = .next
    { s with
      reads := s.reads ++ [.csr (statusWord s)]
      program := if s.busy = true then .poll :: s.program else s.program }

/-- The invariant of the machine is kept by every step: KMEM in canonical form (R51), STATUS legal (R28), the pending
command legal (R27, R34). -/
def Obligations.StepKeepsInvariant : Prop := ∀ s t : State, s.Inv → step s = .next t → t.Inv

/-- Only a completion, a reset or a power-on changes ACC (R27). -/
def Obligations.OnlyCompletionWritesAcc : Prop :=
  ∀ s t : State, step s = .next t →
    t.acc = s.acc ∨ (nextAgent s = .engine ∧ s.busy = true) ∨ nextAgent s = .reset ∨ nextAgent s = .powerOn

/-- BUSY rises only by the host's write of a legal word to CMD and falls only by a completion, a reset or a power-on
(R28). -/
def Obligations.BusyRisesAndFalls : Prop :=
  ∀ s t : State, step s = .next t →
    (s.busy = false → t.busy = true →
      ∃ v i, hostTurnAction s = some (.csrWrite 0x00 v) ∧ decode v = .ok i ∧ i.wellFormed = true) ∧
    (s.busy = true → t.busy = false →
      nextAgent s = .engine ∨ nextAgent s = .reset ∨ nextAgent s = .powerOn)

/-- SEED, LEN, ADDR and DATA change only by the host's write of that register, a reset or a power-on (R22 to R26). -/
def Obligations.OnlyHostWritesOperands : Prop :=
  ∀ s t : State, step s = .next t → nextAgent s ≠ .reset → nextAgent s ≠ .powerOn →
    (t.seed = s.seed ∨ ∃ v, hostTurnAction s = some (.csrWrite 0x08 v) ∨ hostTurnAction s = some (.csrWrite 0x0C v)) ∧
    (t.len = s.len ∨ ∃ v, hostTurnAction s = some (.csrWrite 0x10 v) ∧ t.len = v) ∧
    (t.addr = s.addr ∨ ∃ v, hostTurnAction s = some (.csrWrite 0x14 v) ∧ t.addr = v) ∧
    (t.data = s.data ∨ ∃ v, hostTurnAction s = some (.csrWrite 0x18 v) ∨ hostTurnAction s = some (.csrWrite 0x1C v))

/-- A step of a host that keeps the contract of R174 to R176 makes no draw: with a clean pending command, a step that is no
power-on leaves the draw counter of log entry 3 as it is and the pending command clean. KMEM bytes never written are free
values drawn at power-on (R171), and the contract does not forbid reading or hashing them. -/
def Obligations.ContractMakesNoDraw : Prop :=
  ∀ s t : State, (s.busy = true → s.pendDirty = false) → (∀ a, hostTurnAction s = some a → keepsContract s a = true) →
    nextAgent s ≠ .powerOn → step s = .next t → t.draws = s.draws ∧ (t.busy = true → t.pendDirty = false)
end

