-- ==== Sys2Proof/Laws/Bits.lean ====
section
/-! SUPPORT. The halves of 64-bit values: taking a half of what two halves make gives the half back. -/

namespace Sys2Proof.Machine

/-- The bits of `hi : lo`. -/
theorem getLsbD_joinHalves (hi lo : Word) (k : Nat) :
    (joinHalves hi lo).getLsbD k = if k < 32 then lo.getLsbD k else hi.getLsbD (k - 32) :=
  BitVec.getLsbD_append

theorem getLsbD_lowHalf (x : DWord) (k : Nat) : (lowHalf x).getLsbD k = (decide (k < 32) && x.getLsbD k) := by
  simp [lowHalf]

theorem getLsbD_highHalf (x : DWord) (k : Nat) :
    (highHalf x).getLsbD k = (decide (k < 32) && x.getLsbD (32 + k)) := by
  simp [highHalf]

theorem getLsbD_zext64 (x : Word) (k : Nat) : (zext64 x).getLsbD k = x.getLsbD k := by
  by_cases h : k < 64
  · simp [zext64, h]
  · rw [BitVec.getLsbD_of_ge _ _ (by omega), BitVec.getLsbD_of_ge _ _ (by omega)]

@[simp] theorem lowHalf_joinHalves (hi lo : Word) : lowHalf (joinHalves hi lo) = lo := by
  apply BitVec.eq_of_getLsbD_eq
  intro k hk
  rw [getLsbD_lowHalf, getLsbD_joinHalves, if_pos hk, decide_eq_true hk, Bool.true_and]

@[simp] theorem highHalf_joinHalves (hi lo : Word) : highHalf (joinHalves hi lo) = hi := by
  apply BitVec.eq_of_getLsbD_eq
  intro k hk
  rw [getLsbD_highHalf, getLsbD_joinHalves, if_neg (by omega), decide_eq_true hk, Bool.true_and,
    Nat.add_sub_cancel_left]

@[simp] theorem joinHalves_halves (x : DWord) : joinHalves (highHalf x) (lowHalf x) = x := by
  apply BitVec.eq_of_getLsbD_eq
  intro k hk
  rw [getLsbD_joinHalves, getLsbD_lowHalf, getLsbD_highHalf]
  by_cases h : k < 32
  · simp [h]
  · simp [h, show k - 32 < 32 by omega, show 32 + (k - 32) = k by omega]

@[simp] theorem lowHalf_zext64 (x : Word) : lowHalf (zext64 x) = x := by
  apply BitVec.eq_of_getLsbD_eq
  intro k hk
  rw [getLsbD_lowHalf, getLsbD_zext64, decide_eq_true hk, Bool.true_and]

@[simp] theorem highHalf_zext64 (x : Word) : highHalf (zext64 x) = 0 := by
  apply BitVec.eq_of_getLsbD_eq
  intro k _
  rw [getLsbD_highHalf, getLsbD_zext64, BitVec.getLsbD_of_ge x _ (by omega), Bool.and_false]
  exact BitVec.getLsbD_zero.symm

end Sys2Proof.Machine
end

