-- ==== Sys2Proof/Laws/Decode.lean ====
section
/-! SUPPORT. The decoder: what it answers on the words of each row, and that no two rows of its table overlap. -/

namespace Sys2Proof

/-- No word matches two rows (30_encoding.md R75): every two rows differ in a bit that both masks fix. -/
theorem opcodeRows_disjoint :
    opcodeRows.Pairwise fun p q => p.pattern &&& q.mask ≠ q.pattern &&& p.mask := by decide

/-- A decoded word matches a row of the table, and the command is that row's. -/
theorem decode_ok_iff (v : Word) (i : Instr) :
    decode v = .ok i ↔
      ∃ r, opcodeRows.find? (fun r => r.matchesWord v) = some r ∧ r.build (fieldN v).toNat = i := by
  unfold decode
  cases opcodeRows.find? (fun r => r.matchesWord v) <;> simp

/-- Every row of the table requires Z = v[31:8] to be 0. -/
theorem opcodeRows_fix_high : ∀ r ∈ opcodeRows, r.mask &&& 0xFFFFFF00 = 0xFFFFFF00 ∧ r.pattern &&& 0xFFFFFF00 = 0 := by
  decide

/-- A decodable word has Z = 0. -/
theorem decode_ok_high {v : Word} {i : Instr} (h : decode v = .ok i) : v &&& 0xFFFFFF00 = 0 := by
  obtain ⟨r, hr, -⟩ := (decode_ok_iff v i).1 h
  have hm : v &&& r.mask = r.pattern := by
    have := List.find?_some hr
    simpa [OpcodeRow.matchesWord] using this
  obtain ⟨h1, h2⟩ := opcodeRows_fix_high r (List.mem_of_find?_eq_some hr)
  rw [← hm, BitVec.and_assoc, h1] at h2
  exact h2

/-- A word with Z = 0 is a number below 256. -/
theorem toNat_lt_of_high {v : Word} (h : v &&& 0xFFFFFF00 = 0) : v.toNat < 256 := by
  have hv : v = v &&& 0xFF := by
    have hs : v &&& (0xFFFFFF00 ||| 0xFF) = v := by
      rw [show (0xFFFFFF00 ||| 0xFF : Word) = BitVec.allOnes 32 by decide, BitVec.and_allOnes]
    rw [BitVec.and_or_distrib_left, h] at hs
    simpa using hs.symm
  have hle : v.toNat ≤ 0xFF := by
    rw [hv, BitVec.toNat_and]
    exact Nat.and_le_right
  omega

/-- A decodable word is one of the 256 words with Z = 0. -/
theorem decode_ok_lt {v : Word} {i : Instr} (h : decode v = .ok i) : v.toNat < 256 :=
  toNat_lt_of_high (decode_ok_high h)

@[simp] theorem tableWord_32 (w : Nat) : tableWord 32 w = BitVec.ofNat 32 w := by
  apply BitVec.eq_of_toNat_eq
  simp [tableWord]

end Sys2Proof
end

