-- ==== Sys2Proof/Laws/Memory.lean ====
section
/-! SUPPORT. KMEM: reading after a write, and that a write keeps the canonical form. -/

namespace Sys2Proof.Machine

theorem findByte_none_of_lt (l : List Host.Cell) (a : Nat) (h : ∀ c ∈ l, a < c.1) : findByte l a = none := by
  induction l with
  | nil => rfl
  | cons c rest ih =>
    have hc := h c (by simp)
    rw [findByte, if_neg (by omega), ih fun d hd => h d (by simp [hd])]

theorem findByte_putCell (l : List Host.Cell) (a a' : Nat) (b : Byte) :
    findByte (putCell l a b) a' = if a' = a then some b else findByte l a' := by
  induction l with
  | nil => simp [putCell, findByte, eq_comm]
  | cons c rest ih =>
    unfold putCell
    split
    · simp [findByte, eq_comm]
    · split
      · rename_i h; subst h; by_cases h' : a' = c.1 <;> simp [findByte, h', eq_comm]
      · rename_i h
        by_cases h' : c.1 = a'
        · subst h'; simp [findByte, h]
        · simp [findByte, h', ih]

theorem findByte_eraseCell (l : List Host.Cell) (a a' : Nat) (h : l.Pairwise fun p q => p.1 < q.1) :
    findByte (eraseCell l a) a' = if a' = a then none else findByte l a' := by
  induction l with
  | nil => simp [eraseCell, findByte]
  | cons c rest ih =>
    rw [List.pairwise_cons] at h
    unfold eraseCell
    split
    · rename_i hc
      by_cases h' : a' = a
      · rw [if_pos h', h']
        exact findByte_none_of_lt rest a fun d hd => hc ▸ h.1 d hd
      · rw [if_neg h', findByte, if_neg (by omega)]
    · by_cases h' : c.1 = a'
      · subst h'; rename_i hc; simp [findByte, hc]
      · simp [findByte, h', ih h.2]

theorem mem_eraseCell {l : List Host.Cell} {a : Nat} {c : Host.Cell} (h : c ∈ eraseCell l a) : c ∈ l := by
  induction l with
  | nil => simp [eraseCell] at h
  | cons d rest ih =>
    unfold eraseCell at h
    split at h
    · exact List.mem_cons_of_mem _ h
    · rcases List.mem_cons.1 h with h | h
      · simp [h]
      · exact List.mem_cons_of_mem _ (ih h)

theorem mem_putCell {l : List Host.Cell} {a : Nat} {b : Byte} {c : Host.Cell} (h : c ∈ putCell l a b) :
    c = (a, b) ∨ c ∈ l := by
  induction l with
  | nil => simpa [putCell] using h
  | cons d rest ih =>
    unfold putCell at h
    split at h
    · exact List.mem_cons.1 h
    · split at h
      · rcases List.mem_cons.1 h with h | h
        · exact .inl h
        · exact .inr (List.mem_cons_of_mem _ h)
      · rcases List.mem_cons.1 h with h | h
        · simp [h]
        · exact (ih h).imp_right (List.mem_cons_of_mem _)

theorem eraseCell_rising {l : List Host.Cell} (a : Nat) (h : l.Pairwise fun p q => p.1 < q.1) :
    (eraseCell l a).Pairwise fun p q => p.1 < q.1 := by
  induction l with
  | nil => simp [eraseCell]
  | cons d rest ih =>
    rw [List.pairwise_cons] at h
    unfold eraseCell
    split
    · exact h.2
    · exact List.pairwise_cons.2 ⟨fun e he => h.1 e (mem_eraseCell he), ih h.2⟩

theorem putCell_rising {l : List Host.Cell} (a : Nat) (b : Byte) (h : l.Pairwise fun p q => p.1 < q.1) :
    (putCell l a b).Pairwise fun p q => p.1 < q.1 := by
  induction l with
  | nil => simp [putCell]
  | cons d rest ih =>
    have hd := List.pairwise_cons.1 h
    unfold putCell
    split
    · rename_i hlt
      refine List.pairwise_cons.2 ⟨fun e he => ?_, h⟩
      rcases List.mem_cons.1 he with he | he
      · simpa [he] using hlt
      · exact hlt.trans (hd.1 e he)
    · split
      · rename_i heq
        exact List.pairwise_cons.2 ⟨fun e he => heq ▸ hd.1 e he, hd.2⟩
      · refine List.pairwise_cons.2 ⟨fun e he => ?_, ih hd.2⟩
        rcases mem_putCell he with he | he
        · subst he; simp only; omega
        · exact hd.1 e he

@[simp] theorem Memory.write_size (m : Memory) (a : Nat) (b : Byte) : (m.write a b).size = m.size := rfl

@[simp] theorem Memory.write_unlisted (m : Memory) (a a' : Nat) (b : Byte) :
    (m.write a b).unlisted a' = m.unlisted a' := rfl

/-- A read after a write: the byte written at its address, the old byte everywhere else. -/
theorem Memory.read_write (m : Memory) (a a' : Nat) (b : Byte) (h : m.wf) :
    (m.write a b).read a' = if a' = a then b else m.read a' := by
  unfold Memory.read
  rw [Memory.write_unlisted]
  unfold Memory.write
  dsimp only
  split
  · rename_i hb
    rw [findByte_eraseCell _ _ _ h.2.2.1]
    split
    · rename_i ha; subst ha; simp [hb]
    · rfl
  · rw [findByte_putCell]
    split <;> rfl

/-- A write inside KMEM keeps the canonical form; every other operation on KMEM leaves the memory as it is, or (at
power-on) lists nothing. -/
theorem Memory.write_wf (m : Memory) (a : Nat) (b : Byte) (h : m.wf) (ha : a < m.size) : (m.write a b).wf := by
  obtain ⟨h1, h2, h3, h4⟩ := h
  refine ⟨h1, h2, ?_, ?_⟩
  · unfold Memory.write
    dsimp only
    split
    · exact eraseCell_rising a h3
    · exact putCell_rising a b h3
  · intro c hc
    rw [Memory.write_unlisted, Memory.write_size]
    unfold Memory.write at hc
    dsimp only at hc
    split at hc
    · exact h4 c (mem_eraseCell hc)
    · rename_i hb
      rcases mem_putCell hc with hc | hc
      · subst hc; exact ⟨ha, hb⟩
      · exact h4 c hc

/-- A memory that lists nothing is in canonical form when its size is legal. -/
theorem Memory.wf_of_empty (size image : Nat) (h1 : 1 ≤ size) (h2 : size ≤ 2 ^ 32) : (Memory.mk size image []).wf :=
  ⟨h1, h2, List.Pairwise.nil, by simp⟩

theorem findByte_of_mem {l : List Host.Cell} {c : Host.Cell} (hl : l.Pairwise fun p q => p.1 < q.1) (hm : c ∈ l) :
    findByte l c.1 = some c.2 := by
  induction l with
  | nil => simp at hm
  | cons d rest ih =>
    rw [List.pairwise_cons] at hl
    rcases List.mem_cons.1 hm with hm | hm
    · simp [findByte, hm]
    · have := hl.1 c hm
      rw [findByte, if_neg (by omega), ih hl.2 hm]

theorem mem_of_findByte {l : List Host.Cell} {a : Nat} {b : Byte} (h : findByte l a = some b) : (a, b) ∈ l := by
  induction l with
  | nil => simp [findByte] at h
  | cons d rest ih =>
    unfold findByte at h
    split at h
    · rename_i hd; cases h; subst hd; simp
    · exact List.mem_cons_of_mem _ (ih h)

/-- A cell is listed exactly when its address reads as its byte and not as the power-on draw. -/
theorem Memory.mem_cells_iff (m : Memory) (h : m.wf) (c : Host.Cell) :
    c ∈ m.cells ↔ m.read c.1 = c.2 ∧ c.2 ≠ m.unlisted c.1 := by
  constructor
  · intro hc
    exact ⟨by simp [Memory.read, findByte_of_mem h.2.2.1 hc], (h.2.2.2 c hc).2⟩
  · rintro ⟨hr, hne⟩
    unfold Memory.read at hr
    cases hf : findByte m.cells c.1 with
    | none => rw [hf] at hr; exact absurd hr.symm hne
    | some b => rw [hf] at hr; cases hr; exact mem_of_findByte hf

/-- Memories of one size and one power-on draw that read alike everywhere are equal data: the point of the form. -/
theorem Memory.eq_of_read (m m' : Memory) (h : m.wf) (h' : m'.wf) (hs : m.size = m'.size)
    (hp : m.powerOn = m'.powerOn) (hr : ∀ a, m.read a = m'.read a) : m = m' := by
  have nodup : ∀ {l : List Host.Cell}, l.Pairwise (fun p q => p.1 < q.1) → l.Nodup := fun hl =>
    hl.imp fun {p q} hpq heq => absurd hpq (by simp [heq])
  have hperm : m.cells.Perm m'.cells := by
    rw [List.perm_ext_iff_of_nodup (nodup h.2.2.1) (nodup h'.2.2.1)]
    intro c
    rw [m.mem_cells_iff h, m'.mem_cells_iff h', hr, Memory.unlisted, Memory.unlisted, hp]
  have hcells : m.cells = m'.cells :=
    hperm.eq_of_pairwise (fun p q _ _ h1 h2 => absurd h1 (by omega)) h.2.2.1 h'.2.2.1
  cases m; cases m'; simp_all

@[simp] theorem memRead_zero (m : Memory) (a : Nat) : memRead m a 0 = 0 := rfl

@[simp] theorem memRead_succ (m : Memory) (a n : Nat) :
    memRead m a (n + 1) = memRead m a n + ((m.read (a + n)).setWidth 64 <<< (8 * n)) := rfl

/-- `MemRead` depends on the bytes it reads and nothing else. -/
theorem memRead_congr (m m' : Memory) (a a' n : Nat) (h : ∀ j < n, m.read (a + j) = m'.read (a' + j)) :
    memRead m a n = memRead m' a' n := by
  induction n with
  | zero => rfl
  | succ n ih => rw [memRead_succ, memRead_succ, ih fun j hj => h j (by omega), h n (by omega)]

end Sys2Proof.Machine
end

