-- ==== Sys2Proof/Laws/State.lean ====
section
/-! SUPPORT. One lemma per field per update of State, each true by rfl: what a named update does to a field. -/

namespace Sys2Proof.Machine

/-! ### raiseError -/

@[simp] theorem raiseError_seed (e : ErrorCode) (s : State) : (raiseError e s).seed = s.seed := rfl
@[simp] theorem raiseError_len (e : ErrorCode) (s : State) : (raiseError e s).len = s.len := rfl
@[simp] theorem raiseError_addr (e : ErrorCode) (s : State) : (raiseError e s).addr = s.addr := rfl
@[simp] theorem raiseError_data (e : ErrorCode) (s : State) : (raiseError e s).data = s.data := rfl
@[simp] theorem raiseError_acc (e : ErrorCode) (s : State) : (raiseError e s).acc = s.acc := rfl
@[simp] theorem raiseError_busy (e : ErrorCode) (s : State) : (raiseError e s).busy = s.busy := rfl
@[simp] theorem raiseError_err (e : ErrorCode) (s : State) : (raiseError e s).err = true := rfl
@[simp] theorem raiseError_errCode (e : ErrorCode) (s : State) : (raiseError e s).errCode = if s.err then s.errCode else e.code := rfl
@[simp] theorem raiseError_pendResult (e : ErrorCode) (s : State) : (raiseError e s).pendResult = s.pendResult := rfl
@[simp] theorem raiseError_pendWidth (e : ErrorCode) (s : State) : (raiseError e s).pendWidth = s.pendWidth := rfl
@[simp] theorem raiseError_pendRange (e : ErrorCode) (s : State) : (raiseError e s).pendRange = s.pendRange := rfl
@[simp] theorem raiseError_pendDirty (e : ErrorCode) (s : State) : (raiseError e s).pendDirty = s.pendDirty := rfl
@[simp] theorem raiseError_kmem (e : ErrorCode) (s : State) : (raiseError e s).kmem = s.kmem := rfl
@[simp] theorem raiseError_program (e : ErrorCode) (s : State) : (raiseError e s).program = s.program := rfl
@[simp] theorem raiseError_schedule (e : ErrorCode) (s : State) : (raiseError e s).schedule = s.schedule := rfl
@[simp] theorem raiseError_reads (e : ErrorCode) (s : State) : (raiseError e s).reads = s.reads := rfl
@[simp] theorem raiseError_draws (e : ErrorCode) (s : State) : (raiseError e s).draws = s.draws := rfl

/-! ### clearError -/

@[simp] theorem clearError_seed (s : State) : (clearError s).seed = s.seed := rfl
@[simp] theorem clearError_len (s : State) : (clearError s).len = s.len := rfl
@[simp] theorem clearError_addr (s : State) : (clearError s).addr = s.addr := rfl
@[simp] theorem clearError_data (s : State) : (clearError s).data = s.data := rfl
@[simp] theorem clearError_acc (s : State) : (clearError s).acc = s.acc := rfl
@[simp] theorem clearError_busy (s : State) : (clearError s).busy = s.busy := rfl
@[simp] theorem clearError_err (s : State) : (clearError s).err = false := rfl
@[simp] theorem clearError_errCode (s : State) : (clearError s).errCode = 0 := rfl
@[simp] theorem clearError_pendResult (s : State) : (clearError s).pendResult = s.pendResult := rfl
@[simp] theorem clearError_pendWidth (s : State) : (clearError s).pendWidth = s.pendWidth := rfl
@[simp] theorem clearError_pendRange (s : State) : (clearError s).pendRange = s.pendRange := rfl
@[simp] theorem clearError_pendDirty (s : State) : (clearError s).pendDirty = s.pendDirty := rfl
@[simp] theorem clearError_kmem (s : State) : (clearError s).kmem = s.kmem := rfl
@[simp] theorem clearError_program (s : State) : (clearError s).program = s.program := rfl
@[simp] theorem clearError_schedule (s : State) : (clearError s).schedule = s.schedule := rfl
@[simp] theorem clearError_reads (s : State) : (clearError s).reads = s.reads := rfl
@[simp] theorem clearError_draws (s : State) : (clearError s).draws = s.draws := rfl

/-! ### accept -/

@[simp] theorem accept_seed (w : Width) (r : Option (Nat × Nat)) (x : DWord) (s : State) : (accept w r x s).seed = s.seed := rfl
@[simp] theorem accept_len (w : Width) (r : Option (Nat × Nat)) (x : DWord) (s : State) : (accept w r x s).len = s.len := rfl
@[simp] theorem accept_addr (w : Width) (r : Option (Nat × Nat)) (x : DWord) (s : State) : (accept w r x s).addr = s.addr := rfl
@[simp] theorem accept_data (w : Width) (r : Option (Nat × Nat)) (x : DWord) (s : State) : (accept w r x s).data = s.data := rfl
@[simp] theorem accept_acc (w : Width) (r : Option (Nat × Nat)) (x : DWord) (s : State) : (accept w r x s).acc = s.acc := rfl
@[simp] theorem accept_busy (w : Width) (r : Option (Nat × Nat)) (x : DWord) (s : State) : (accept w r x s).busy = true := rfl
@[simp] theorem accept_err (w : Width) (r : Option (Nat × Nat)) (x : DWord) (s : State) : (accept w r x s).err = s.err := rfl
@[simp] theorem accept_errCode (w : Width) (r : Option (Nat × Nat)) (x : DWord) (s : State) : (accept w r x s).errCode = s.errCode := rfl
@[simp] theorem accept_pendResult (w : Width) (r : Option (Nat × Nat)) (x : DWord) (s : State) : (accept w r x s).pendResult = x := rfl
@[simp] theorem accept_pendWidth (w : Width) (r : Option (Nat × Nat)) (x : DWord) (s : State) : (accept w r x s).pendWidth = w := rfl
@[simp] theorem accept_pendRange (w : Width) (r : Option (Nat × Nat)) (x : DWord) (s : State) : (accept w r x s).pendRange = r := rfl
@[simp] theorem accept_pendDirty (w : Width) (r : Option (Nat × Nat)) (x : DWord) (s : State) : (accept w r x s).pendDirty = false := rfl
@[simp] theorem accept_kmem (w : Width) (r : Option (Nat × Nat)) (x : DWord) (s : State) : (accept w r x s).kmem = s.kmem := rfl
@[simp] theorem accept_program (w : Width) (r : Option (Nat × Nat)) (x : DWord) (s : State) : (accept w r x s).program = s.program := rfl
@[simp] theorem accept_schedule (w : Width) (r : Option (Nat × Nat)) (x : DWord) (s : State) : (accept w r x s).schedule = s.schedule := rfl
@[simp] theorem accept_reads (w : Width) (r : Option (Nat × Nat)) (x : DWord) (s : State) : (accept w r x s).reads = s.reads := rfl
@[simp] theorem accept_draws (w : Width) (r : Option (Nat × Nat)) (x : DWord) (s : State) : (accept w r x s).draws = s.draws := rfl

/-! ### finish -/

@[simp] theorem finish_seed (x : DWord) (s : State) : (finish x s).seed = s.seed := rfl
@[simp] theorem finish_len (x : DWord) (s : State) : (finish x s).len = s.len := rfl
@[simp] theorem finish_addr (x : DWord) (s : State) : (finish x s).addr = s.addr := rfl
@[simp] theorem finish_data (x : DWord) (s : State) : (finish x s).data = s.data := rfl
@[simp] theorem finish_acc (x : DWord) (s : State) : (finish x s).acc = x := rfl
@[simp] theorem finish_busy (x : DWord) (s : State) : (finish x s).busy = false := rfl
@[simp] theorem finish_err (x : DWord) (s : State) : (finish x s).err = s.err := rfl
@[simp] theorem finish_errCode (x : DWord) (s : State) : (finish x s).errCode = s.errCode := rfl
@[simp] theorem finish_pendResult (x : DWord) (s : State) : (finish x s).pendResult = s.pendResult := rfl
@[simp] theorem finish_pendWidth (x : DWord) (s : State) : (finish x s).pendWidth = s.pendWidth := rfl
@[simp] theorem finish_pendRange (x : DWord) (s : State) : (finish x s).pendRange = s.pendRange := rfl
@[simp] theorem finish_pendDirty (x : DWord) (s : State) : (finish x s).pendDirty = s.pendDirty := rfl
@[simp] theorem finish_kmem (x : DWord) (s : State) : (finish x s).kmem = s.kmem := rfl
@[simp] theorem finish_program (x : DWord) (s : State) : (finish x s).program = s.program := rfl
@[simp] theorem finish_schedule (x : DWord) (s : State) : (finish x s).schedule = s.schedule := rfl
@[simp] theorem finish_reads (x : DWord) (s : State) : (finish x s).reads = s.reads := rfl
@[simp] theorem finish_draws (x : DWord) (s : State) : (finish x s).draws = s.draws := rfl

/-! ### noteDirty -/

@[simp] theorem noteDirty_seed (a : Nat) (s : State) : (noteDirty a s).seed = s.seed := rfl
@[simp] theorem noteDirty_len (a : Nat) (s : State) : (noteDirty a s).len = s.len := rfl
@[simp] theorem noteDirty_addr (a : Nat) (s : State) : (noteDirty a s).addr = s.addr := rfl
@[simp] theorem noteDirty_data (a : Nat) (s : State) : (noteDirty a s).data = s.data := rfl
@[simp] theorem noteDirty_acc (a : Nat) (s : State) : (noteDirty a s).acc = s.acc := rfl
@[simp] theorem noteDirty_busy (a : Nat) (s : State) : (noteDirty a s).busy = s.busy := rfl
@[simp] theorem noteDirty_err (a : Nat) (s : State) : (noteDirty a s).err = s.err := rfl
@[simp] theorem noteDirty_errCode (a : Nat) (s : State) : (noteDirty a s).errCode = s.errCode := rfl
@[simp] theorem noteDirty_pendResult (a : Nat) (s : State) : (noteDirty a s).pendResult = s.pendResult := rfl
@[simp] theorem noteDirty_pendWidth (a : Nat) (s : State) : (noteDirty a s).pendWidth = s.pendWidth := rfl
@[simp] theorem noteDirty_pendRange (a : Nat) (s : State) : (noteDirty a s).pendRange = s.pendRange := rfl
@[simp] theorem noteDirty_pendDirty (a : Nat) (s : State) : (noteDirty a s).pendDirty = (s.pendDirty || (s.busy && inRange s.pendRange a)) := rfl
@[simp] theorem noteDirty_kmem (a : Nat) (s : State) : (noteDirty a s).kmem = s.kmem := rfl
@[simp] theorem noteDirty_program (a : Nat) (s : State) : (noteDirty a s).program = s.program := rfl
@[simp] theorem noteDirty_schedule (a : Nat) (s : State) : (noteDirty a s).schedule = s.schedule := rfl
@[simp] theorem noteDirty_reads (a : Nat) (s : State) : (noteDirty a s).reads = s.reads := rfl
@[simp] theorem noteDirty_draws (a : Nat) (s : State) : (noteDirty a s).draws = s.draws := rfl

/-! ### noteRead -/

@[simp] theorem noteRead_seed (v : ReadValue) (s : State) : (noteRead v s).seed = s.seed := rfl
@[simp] theorem noteRead_len (v : ReadValue) (s : State) : (noteRead v s).len = s.len := rfl
@[simp] theorem noteRead_addr (v : ReadValue) (s : State) : (noteRead v s).addr = s.addr := rfl
@[simp] theorem noteRead_data (v : ReadValue) (s : State) : (noteRead v s).data = s.data := rfl
@[simp] theorem noteRead_acc (v : ReadValue) (s : State) : (noteRead v s).acc = s.acc := rfl
@[simp] theorem noteRead_busy (v : ReadValue) (s : State) : (noteRead v s).busy = s.busy := rfl
@[simp] theorem noteRead_err (v : ReadValue) (s : State) : (noteRead v s).err = s.err := rfl
@[simp] theorem noteRead_errCode (v : ReadValue) (s : State) : (noteRead v s).errCode = s.errCode := rfl
@[simp] theorem noteRead_pendResult (v : ReadValue) (s : State) : (noteRead v s).pendResult = s.pendResult := rfl
@[simp] theorem noteRead_pendWidth (v : ReadValue) (s : State) : (noteRead v s).pendWidth = s.pendWidth := rfl
@[simp] theorem noteRead_pendRange (v : ReadValue) (s : State) : (noteRead v s).pendRange = s.pendRange := rfl
@[simp] theorem noteRead_pendDirty (v : ReadValue) (s : State) : (noteRead v s).pendDirty = s.pendDirty := rfl
@[simp] theorem noteRead_kmem (v : ReadValue) (s : State) : (noteRead v s).kmem = s.kmem := rfl
@[simp] theorem noteRead_program (v : ReadValue) (s : State) : (noteRead v s).program = s.program := rfl
@[simp] theorem noteRead_schedule (v : ReadValue) (s : State) : (noteRead v s).schedule = s.schedule := rfl
@[simp] theorem noteRead_reads (v : ReadValue) (s : State) : (noteRead v s).reads = s.reads ++ [v] := rfl
@[simp] theorem noteRead_draws (v : ReadValue) (s : State) : (noteRead v s).draws = s.draws := rfl

/-! ### readCsr -/

@[simp] theorem readCsr_seed (r : Csr) (s : State) : (readCsr r s).seed = s.seed := rfl
@[simp] theorem readCsr_len (r : Csr) (s : State) : (readCsr r s).len = s.len := rfl
@[simp] theorem readCsr_addr (r : Csr) (s : State) : (readCsr r s).addr = s.addr := rfl
@[simp] theorem readCsr_data (r : Csr) (s : State) : (readCsr r s).data = s.data := rfl
@[simp] theorem readCsr_acc (r : Csr) (s : State) : (readCsr r s).acc = s.acc := rfl
@[simp] theorem readCsr_busy (r : Csr) (s : State) : (readCsr r s).busy = s.busy := rfl
@[simp] theorem readCsr_err (r : Csr) (s : State) : (readCsr r s).err = s.err := rfl
@[simp] theorem readCsr_errCode (r : Csr) (s : State) : (readCsr r s).errCode = s.errCode := rfl
@[simp] theorem readCsr_pendResult (r : Csr) (s : State) : (readCsr r s).pendResult = s.pendResult := rfl
@[simp] theorem readCsr_pendWidth (r : Csr) (s : State) : (readCsr r s).pendWidth = s.pendWidth := rfl
@[simp] theorem readCsr_pendRange (r : Csr) (s : State) : (readCsr r s).pendRange = s.pendRange := rfl
@[simp] theorem readCsr_pendDirty (r : Csr) (s : State) : (readCsr r s).pendDirty = s.pendDirty := rfl
@[simp] theorem readCsr_kmem (r : Csr) (s : State) : (readCsr r s).kmem = s.kmem := rfl
@[simp] theorem readCsr_program (r : Csr) (s : State) : (readCsr r s).program = s.program := rfl
@[simp] theorem readCsr_schedule (r : Csr) (s : State) : (readCsr r s).schedule = s.schedule := rfl
@[simp] theorem readCsr_reads (r : Csr) (s : State) : (readCsr r s).reads = s.reads ++ [.csr (readValue r s)] := rfl
@[simp] theorem readCsr_draws (r : Csr) (s : State) : (readCsr r s).draws = if readDraws r s then s.draws + 1 else s.draws := rfl

/-! ### resetBlock -/

@[simp] theorem resetBlock_seed (s : State) : (resetBlock s).seed = 0 := rfl
@[simp] theorem resetBlock_len (s : State) : (resetBlock s).len = 0 := rfl
@[simp] theorem resetBlock_addr (s : State) : (resetBlock s).addr = 0 := rfl
@[simp] theorem resetBlock_data (s : State) : (resetBlock s).data = 0 := rfl
@[simp] theorem resetBlock_acc (s : State) : (resetBlock s).acc = 0 := rfl
@[simp] theorem resetBlock_busy (s : State) : (resetBlock s).busy = false := rfl
@[simp] theorem resetBlock_err (s : State) : (resetBlock s).err = false := rfl
@[simp] theorem resetBlock_errCode (s : State) : (resetBlock s).errCode = 0 := rfl
@[simp] theorem resetBlock_pendResult (s : State) : (resetBlock s).pendResult = 0 := rfl
@[simp] theorem resetBlock_pendWidth (s : State) : (resetBlock s).pendWidth = .m32 := rfl
@[simp] theorem resetBlock_pendRange (s : State) : (resetBlock s).pendRange = none := rfl
@[simp] theorem resetBlock_pendDirty (s : State) : (resetBlock s).pendDirty = false := rfl
@[simp] theorem resetBlock_kmem (s : State) : (resetBlock s).kmem = s.kmem := rfl
@[simp] theorem resetBlock_program (s : State) : (resetBlock s).program = s.program := rfl
@[simp] theorem resetBlock_schedule (s : State) : (resetBlock s).schedule = s.schedule := rfl
@[simp] theorem resetBlock_reads (s : State) : (resetBlock s).reads = s.reads := rfl
@[simp] theorem resetBlock_draws (s : State) : (resetBlock s).draws = s.draws := rfl

/-! ### powerOnBlock -/

@[simp] theorem powerOnBlock_seed (s : State) : (powerOnBlock s).seed = 0 := rfl
@[simp] theorem powerOnBlock_len (s : State) : (powerOnBlock s).len = 0 := rfl
@[simp] theorem powerOnBlock_addr (s : State) : (powerOnBlock s).addr = 0 := rfl
@[simp] theorem powerOnBlock_data (s : State) : (powerOnBlock s).data = 0 := rfl
@[simp] theorem powerOnBlock_acc (s : State) : (powerOnBlock s).acc = 0 := rfl
@[simp] theorem powerOnBlock_busy (s : State) : (powerOnBlock s).busy = false := rfl
@[simp] theorem powerOnBlock_err (s : State) : (powerOnBlock s).err = false := rfl
@[simp] theorem powerOnBlock_errCode (s : State) : (powerOnBlock s).errCode = 0 := rfl
@[simp] theorem powerOnBlock_pendResult (s : State) : (powerOnBlock s).pendResult = 0 := rfl
@[simp] theorem powerOnBlock_pendWidth (s : State) : (powerOnBlock s).pendWidth = .m32 := rfl
@[simp] theorem powerOnBlock_pendRange (s : State) : (powerOnBlock s).pendRange = none := rfl
@[simp] theorem powerOnBlock_pendDirty (s : State) : (powerOnBlock s).pendDirty = false := rfl
@[simp] theorem powerOnBlock_kmem (s : State) : (powerOnBlock s).kmem = ⟨s.kmem.size, Config.powerOnImage s.draws, []⟩ := rfl
@[simp] theorem powerOnBlock_program (s : State) : (powerOnBlock s).program = s.program := rfl
@[simp] theorem powerOnBlock_schedule (s : State) : (powerOnBlock s).schedule = s.schedule := rfl
@[simp] theorem powerOnBlock_reads (s : State) : (powerOnBlock s).reads = s.reads := rfl
@[simp] theorem powerOnBlock_draws (s : State) : (powerOnBlock s).draws = s.draws + 1 := rfl

/-! ### takeTurn -/

@[simp] theorem takeTurn_seed (s : State) : (takeTurn s).seed = s.seed := rfl
@[simp] theorem takeTurn_len (s : State) : (takeTurn s).len = s.len := rfl
@[simp] theorem takeTurn_addr (s : State) : (takeTurn s).addr = s.addr := rfl
@[simp] theorem takeTurn_data (s : State) : (takeTurn s).data = s.data := rfl
@[simp] theorem takeTurn_acc (s : State) : (takeTurn s).acc = s.acc := rfl
@[simp] theorem takeTurn_busy (s : State) : (takeTurn s).busy = s.busy := rfl
@[simp] theorem takeTurn_err (s : State) : (takeTurn s).err = s.err := rfl
@[simp] theorem takeTurn_errCode (s : State) : (takeTurn s).errCode = s.errCode := rfl
@[simp] theorem takeTurn_pendResult (s : State) : (takeTurn s).pendResult = s.pendResult := rfl
@[simp] theorem takeTurn_pendWidth (s : State) : (takeTurn s).pendWidth = s.pendWidth := rfl
@[simp] theorem takeTurn_pendRange (s : State) : (takeTurn s).pendRange = s.pendRange := rfl
@[simp] theorem takeTurn_pendDirty (s : State) : (takeTurn s).pendDirty = s.pendDirty := rfl
@[simp] theorem takeTurn_kmem (s : State) : (takeTurn s).kmem = s.kmem := rfl
@[simp] theorem takeTurn_program (s : State) : (takeTurn s).program = s.program := rfl
@[simp] theorem takeTurn_schedule (s : State) : (takeTurn s).schedule = s.schedule.tail := rfl
@[simp] theorem takeTurn_reads (s : State) : (takeTurn s).reads = s.reads := rfl
@[simp] theorem takeTurn_draws (s : State) : (takeTurn s).draws = s.draws := rfl

/-! ### placeCommand -/

@[simp] theorem placeCommand_seed (v : Word) (s : State) : (placeCommand v s).seed = s.seed := rfl
@[simp] theorem placeCommand_len (v : Word) (s : State) : (placeCommand v s).len = s.len := rfl
@[simp] theorem placeCommand_addr (v : Word) (s : State) : (placeCommand v s).addr = s.addr := rfl
@[simp] theorem placeCommand_data (v : Word) (s : State) : (placeCommand v s).data = s.data := rfl
@[simp] theorem placeCommand_acc (v : Word) (s : State) : (placeCommand v s).acc = s.acc := rfl
@[simp] theorem placeCommand_busy (v : Word) (s : State) : (placeCommand v s).busy = s.busy := rfl
@[simp] theorem placeCommand_err (v : Word) (s : State) : (placeCommand v s).err = s.err := rfl
@[simp] theorem placeCommand_errCode (v : Word) (s : State) : (placeCommand v s).errCode = s.errCode := rfl
@[simp] theorem placeCommand_pendResult (v : Word) (s : State) : (placeCommand v s).pendResult = s.pendResult := rfl
@[simp] theorem placeCommand_pendWidth (v : Word) (s : State) : (placeCommand v s).pendWidth = s.pendWidth := rfl
@[simp] theorem placeCommand_pendRange (v : Word) (s : State) : (placeCommand v s).pendRange = s.pendRange := rfl
@[simp] theorem placeCommand_pendDirty (v : Word) (s : State) : (placeCommand v s).pendDirty = s.pendDirty := rfl
@[simp] theorem placeCommand_kmem (v : Word) (s : State) : (placeCommand v s).kmem = s.kmem := rfl
@[simp] theorem placeCommand_program (v : Word) (s : State) : (placeCommand v s).program = .csrWrite 0x00 v :: s.program := rfl
@[simp] theorem placeCommand_schedule (v : Word) (s : State) : (placeCommand v s).schedule = .host :: s.schedule := rfl
@[simp] theorem placeCommand_reads (v : Word) (s : State) : (placeCommand v s).reads = s.reads := rfl
@[simp] theorem placeCommand_draws (v : Word) (s : State) : (placeCommand v s).draws = s.draws := rfl

end Sys2Proof.Machine
end

