-- ==== Sys2Proof/Laws/Ops.lean ====
section
/-! SUPPORT. What each shared operation and each move can do, said once. -/

namespace Sys2Proof.Machine

/-- A command without a KMEM operand: OVERRUN or acceptance, nothing else. -/
theorem issue_eq (w : Width) (x : DWord) (s : State) :
    issue w x s = .next (if s.busy then raiseError .overrun s else accept w none x s) := by
  unfold issue; split <;> rfl

/-- A HASH command: OVERRUN, RANGE or acceptance, in this order. -/
theorem issueHash_eq (w : Width) (x : DWord) (s : State) :
    issueHash w x s = .next (if s.busy then raiseError .overrun s
      else if bufferOutOfRange s then raiseError .range s else accept w (bufferRange s) x s) := by
  unfold issueHash; split
  · rfl
  · split <;> rfl

/-- An ILLEGAL word: OVERRUN or ILLEGAL_CMD. -/
theorem issueIllegal_eq (s : State) :
    issueIllegal s = .next (raiseError (if s.busy then .overrun else .illegalCmd) s) := by
  unfold issueIllegal; split <;> simp [*]

/-- LEN = 0 as a number and as a register value. -/
theorem bufferLength_eq_zero (s : State) : bufferLength s = 0 ↔ s.len = 0 := by
  unfold bufferLength
  exact ⟨fun h => BitVec.eq_of_toNat_eq h, fun h => by rw [h]; rfl⟩

/-- The range check of R90, in the words of the registers. -/
theorem bufferOutOfRange_iff (s : State) :
    bufferOutOfRange s = true ↔ s.len ≠ 0 ∧ s.kmem.size < s.addr.toNat + s.len.toNat := by
  unfold bufferOutOfRange
  rw [Bool.and_eq_true, decide_eq_true_iff, decide_eq_true_iff, Ne, bufferLength_eq_zero]
  rfl

/-- The range check passes exactly for an empty buffer and for one that lies in KMEM. -/
theorem bufferInRange_iff (s : State) :
    bufferOutOfRange s = false ↔ s.len = 0 ∨ s.addr.toNat + s.len.toNat ≤ s.kmem.size := by
  rw [← Bool.not_eq_true, bufferOutOfRange_iff]
  by_cases h : s.len = 0
  · simp [h]
  · simp only [ne_eq, h, not_false_eq_true, true_and, false_or]
    omega

/-- PEND_RANGE of a HASH command, in the words of the registers. -/
theorem bufferRange_eq (s : State) :
    bufferRange s = if s.len = 0 then none else some (s.addr.toNat, s.len.toNat) := by
  unfold bufferRange
  by_cases h : s.len = 0
  · rw [if_pos h, if_pos ((bufferLength_eq_zero s).2 h)]
  · rw [if_neg h, if_neg (mt (bufferLength_eq_zero s).1 h)]
    rfl

/-- What a command does to the state: an error is raised, or the command is accepted as R90 says. -/
inductive IssueOutcome (i : Instr) (s : State) : State → Prop where
  | overrun (h : s.busy = true) : IssueOutcome i s (raiseError .overrun s)
  | illegal (h : s.busy = false) (hw : i.wellFormed = false) : IssueOutcome i s (raiseError .illegalCmd s)
  | range (h : s.busy = false) (hh : isHash i = true) (hr : bufferOutOfRange s = true) :
      IssueOutcome i s (raiseError .range s)
  | accepted (h : s.busy = false) (hw : i.wellFormed = true) (hr : isHash i = true → bufferOutOfRange s = false) :
      IssueOutcome i s (issued i s)

/-- Every command answers a next state, one of the four of `IssueOutcome`. -/
theorem exec_outcome (i : Instr) (s : State) : ∃ t, exec i s = .next t ∧ IssueOutcome i s t := by
  have plain : ∀ (j : Instr), isHash j = false → j.wellFormed = true → ∃ t,
      issue (instrWidth j) (execResult j s) s = .next t ∧ IssueOutcome j s t := by
    intro j hj hw
    rw [issue_eq]
    refine ⟨_, rfl, ?_⟩
    cases hb : s.busy with
    | true => exact .overrun hb
    | false =>
      have := IssueOutcome.accepted (i := j) (s := s) hb hw (by simp [hj])
      simpa [issued, instrRange, hj] using this
  have hash : ∀ (j : Instr), isHash j = true → j.wellFormed = true → ∃ t,
      issueHash (instrWidth j) (execResult j s) s = .next t ∧ IssueOutcome j s t := by
    intro j hj hw
    rw [issueHash_eq]
    refine ⟨_, rfl, ?_⟩
    cases hb : s.busy with
    | true => exact .overrun hb
    | false =>
      cases hr : bufferOutOfRange s with
      | true => exact .range hb hj hr
      | false =>
        have := IssueOutcome.accepted (i := j) (s := s) hb hw (fun _ => hr)
        simpa [issued, instrRange, hj] using this
  have bad : ∀ (j : Instr), j.wellFormed = false → ∃ t, issueIllegal s = .next t ∧ IssueOutcome j s t := by
    intro j hw
    rw [issueIllegal_eq]
    refine ⟨_, rfl, ?_⟩
    cases hb : s.busy with
    | true => exact .overrun hb
    | false => exact .illegal hb hw
  cases i with
  | nop => exact plain .nop rfl rfl
  | init32 => exact plain .init32 rfl rfl
  | word32 => exact plain .word32 rfl rfl
  | tail32 n =>
    by_cases hn : n ≤ 3
    · have := plain (.tail32 n) rfl (by simp [Instr.wellFormed, hn])
      rw [exec, execTail32, if_pos hn]
      exact this
    · simpa [exec, execTail32, hn] using bad (.tail32 n) (by simpa [Instr.wellFormed] using hn)
  | final32 => exact plain .final32 rfl rfl
  | hash32 => exact hash .hash32 rfl rfl
  | init64 => exact plain .init64 rfl rfl
  | word64 => exact plain .word64 rfl rfl
  | tail64 n =>
    by_cases hn : n ≤ 7
    · have := plain (.tail64 n) rfl (by simp [Instr.wellFormed, hn])
      rw [exec, execTail64, if_pos hn]
      exact this
    · simpa [exec, execTail64, hn] using bad (.tail64 n) (by simpa [Instr.wellFormed] using hn)
  | final64 => exact plain .final64 rfl rfl
  | hash64 => exact hash .hash64 rfl rfl

/-- The inversion of `exec`. -/
theorem exec_next {i : Instr} {s t : State} (h : exec i s = .next t) : IssueOutcome i s t := by
  obtain ⟨t', h', ho⟩ := exec_outcome i s
  rw [h] at h'
  cases h'
  exact ho

/-- When a command is accepted: it has a word, nothing is pending, and a HASH command's buffer passes the check. -/
theorem exec_accepts {i : Instr} {s : State} (hw : i.wellFormed = true) (hb : s.busy = false)
    (hr : isHash i = true → bufferOutOfRange s = false) : exec i s = .next (issued i s) := by
  obtain ⟨t, ht, ho⟩ := exec_outcome i s
  cases ho with
  | overrun h => rw [hb] at h; cases h
  | illegal _ h => rw [hw] at h; cases h
  | range _ hh h => rw [hr hh] at h; cases h
  | accepted => exact ht

/-- What a CMD write does to the state (R90). -/
inductive CmdOutcome (v : Word) (s : State) : State → Prop where
  | overrun (h : s.busy = true) : CmdOutcome v s (raiseError .overrun s)
  | illegal (h : s.busy = false) (hd : ∀ i, decode v ≠ .ok i) : CmdOutcome v s (raiseError .illegalCmd s)
  | issued (i : Instr) (t : State) (h : s.busy = false) (hd : decode v = .ok i) (hx : exec i s = .next t) :
      CmdOutcome v s t

/-- Every CMD write answers a next state. -/
theorem writeCmd_outcome (v : Word) (s : State) : ∃ t, writeCmd v s = .next t ∧ CmdOutcome v s t := by
  unfold writeCmd
  cases hb : s.busy with
  | true => exact ⟨_, rfl, .overrun hb⟩
  | false =>
    cases hd : decode v with
    | ok i =>
      obtain ⟨t, ht, -⟩ := exec_outcome i s
      exact ⟨t, by simpa using ht, .issued i t hb hd ht⟩
    | error e =>
      exact ⟨raiseError .illegalCmd s, by simp [issueIllegal, hb], .illegal hb (by simp [hd])⟩

/-- A CMD write changes no field but ERR, ERRCODE, BUSY and the pending state. -/
theorem writeCmd_frame {v : Word} {s t : State} (h : writeCmd v s = .next t) :
    t.seed = s.seed ∧ t.len = s.len ∧ t.addr = s.addr ∧ t.data = s.data ∧ t.acc = s.acc ∧ t.kmem = s.kmem ∧
      t.program = s.program ∧ t.schedule = s.schedule ∧ t.reads = s.reads ∧ t.draws = s.draws := by
  obtain ⟨t', h', ho⟩ := writeCmd_outcome v s
  rw [h] at h'
  cases h'
  cases ho with
  | overrun => simp
  | illegal => simp
  | issued i _ _ _ hx => cases exec_next hx <;> simp [Machine.issued]

/-- The engine's move: nothing while idle; a draw for a dirtied command; else the latched result. -/
theorem engineStep_idle {s : State} (h : s.busy = false) : engineStep s = s := by simp [engineStep, h]

theorem engineStep_clean {s : State} (h : s.busy = true) (hd : s.pendDirty = false) :
    engineStep s = finish s.pendResult s := by simp [engineStep, h, hd]

theorem engineStep_dirty {s : State} (h : s.busy = true) (hd : s.pendDirty = true) :
    engineStep s = finishDrawn s := by simp [engineStep, h, hd]

/-- After the engine's move nothing is pending. -/
@[simp] theorem engineStep_busy (s : State) : (engineStep s).busy = false := by
  unfold engineStep
  split
  · split <;> rfl
  · simpa using ‹¬s.busy = true›

/-- A register access is admitted exactly at the aligned offsets of the window. -/
theorem csrAt_ok {offset : Nat} (h : offset < 0x40) (h4 : offset % 4 = 0) : csrAt offset = .ok (csrNamed offset) := by
  rw [csrAt, if_neg (by omega), if_neg (by omega)]

theorem csrAt_error {offset : Nat} (h : ¬(offset < 0x40 ∧ offset % 4 = 0)) : ∃ e, csrAt offset = .error e := by
  unfold csrAt
  split
  · exact ⟨_, rfl⟩
  · rw [if_pos (by omega)]
    exact ⟨_, rfl⟩

/-- A register's own offset reaches it. -/
theorem csrAt_offset (r : Csr) : csrAt r.offset = .ok r := by cases r <;> rfl

/-- An accepted command that is waited out leaves Exec in ACC. -/
theorem engineStep_issued (i : Instr) (s : State) :
    engineStep (issued i s) = finish (execResult i s) (issued i s) := by
  rw [engineStep_clean rfl rfl]; rfl

/-- The state after an accepted command was waited out. -/
theorem afterCommand_accepted {i : Instr} {s : State} (hw : i.wellFormed = true) (hb : s.busy = false)
    (hr : isHash i = true → bufferOutOfRange s = false) :
    afterCommand i s = finish (execResult i s) (issued i s) := by
  rw [afterCommand, exec_accepts hw hb hr]
  exact engineStep_issued i s

end Sys2Proof.Machine
end

