-- ==== Sys2Proof/Laws/PerInstr.lean ====
section
/-! SUPPORT. A statement about every command as syntax, one lemma per constructor: the fields of its command word
(30_encoding.md R71, R74). -/

namespace Sys2Proof.Laws.Fields

/-- The operation digit of R74. -/
def opDigit : Instr → BitVec 4
  | .nop => 0x0
  | .init32 => 0x1
  | .word32 => 0x2
  | .tail32 _ => 0x3
  | .final32 => 0x4
  | .hash32 => 0x5
  | .init64 => 0x9
  | .word64 => 0xA
  | .tail64 _ => 0xB
  | .final64 => 0xC
  | .hash64 => 0xD

/-- The tail count of R72, 0 for a command without one. -/
def tailCount : Instr → Nat
  | .tail32 n | .tail64 n => n
  | .nop | .init32 | .word32 | .final32 | .hash32 | .init64 | .word64 | .final64 | .hash64 => 0

/-- The word of a well-formed command has Z = 0, its count in N and its digit in OP. -/
def Statement (i : Instr) : Prop :=
  i.wellFormed = true →
    fieldZ (encode i) = 0 ∧ (fieldN (encode i)).toNat = tailCount i ∧ fieldOp (encode i) = opDigit i

theorem nop : Statement .nop := by unfold Statement; decide
theorem init32 : Statement .init32 := by unfold Statement; decide
theorem word32 : Statement .word32 := by unfold Statement; decide
theorem tail32 (n : Nat) : Statement (.tail32 n) := by
  intro h
  have hn : n ≤ 3 := by simpa [Instr.wellFormed] using h
  interval_cases n <;> decide
theorem final32 : Statement .final32 := by unfold Statement; decide
theorem hash32 : Statement .hash32 := by unfold Statement; decide
theorem init64 : Statement .init64 := by unfold Statement; decide
theorem word64 : Statement .word64 := by unfold Statement; decide
theorem tail64 (n : Nat) : Statement (.tail64 n) := by
  intro h
  have hn : n ≤ 7 := by simpa [Instr.wellFormed] using h
  interval_cases n <;> decide
theorem final64 : Statement .final64 := by unfold Statement; decide
theorem hash64 : Statement .hash64 := by unfold Statement; decide

end Sys2Proof.Laws.Fields
end

