-- ==== Sys2Proof/Machine/Script.lean ====
section
/-! DEFINITION. The host-script notation (30_encoding.md R80 to R82): lines and the host actions they stand for. A
line whose command has no command word is an assembly error and stands for none. -/

namespace Sys2Proof.Machine

/-- A line of a host script (R81) or a pseudo-instruction (R82). -/
inductive ScriptLine where
  | wr (r : Csr) (v : Word)
  | rd (r : Csr)
  | kw (a : Nat) (b0 : Byte) (rest : List Byte)
  | kr (a : Nat)
  | cmd (i : Instr)
  | poll
  | clrErr
  | ldata (lo hi : Word)
  | murmur32 (a l s : Word)
  | murmur64 (a l : Word) (s : DWord)
  deriving DecidableEq, Repr

/-- `WR reg, v` as a transaction (R81). -/
def writeReg (r : Csr) (v : Word) : HostAction := .csrWrite r.offset v

/-- `RD reg` as a transaction (R81). -/
def readReg (r : Csr) : HostAction := .csrRead r.offset

/-- `CMD m` as a transaction (R81): `WR CMD, word(m)`, where word(m) is the assembled word of m; none is the assembly
error of R80. -/
def writeCommand (i : Instr) : Option HostAction := (assemble i).map (writeReg .cmd)

/-- Several bytes from an address on (R82 (a)). -/
def writeBytes : Nat → List Byte → List HostAction
  | _, [] => []
  | a, b :: rest => .kmemWrite a b :: writeBytes (a + 1) rest

/-- The expansion of a line (R81, R82); none for an assembly error (R80). -/
def ScriptLine.expand : ScriptLine → Option (List HostAction)
  | .wr r v => some [writeReg r v]
  | .rd r => some [readReg r]
  | .kw a b0 rest => some (writeBytes a (b0 :: rest))
  | .kr a => some [.kmemRead a]
  | .cmd i => (writeCommand i).map fun c => [c]
  | .poll => some [.poll]
  | .clrErr => some [writeReg .status 0x00000002]
  | .ldata lo hi => some [writeReg .dataLo lo, writeReg .dataHi hi]
  | .murmur32 a l s => (writeCommand .hash32).map fun c =>
    [writeReg .addr a, writeReg .len l, writeReg .seedLo s, c, .poll, readReg .accLo]
  | .murmur64 a l s => (writeCommand .hash64).map fun c =>
    [writeReg .addr a, writeReg .len l, writeReg .seedLo (lowHalf s), writeReg .seedHi (highHalf s), c, .poll,
      readReg .accLo, readReg .accHi]

/-- A script's host actions, in program order; a script with an assembly error in any line has none (R80). -/
def expandScript : List ScriptLine → Option (List HostAction)
  | [] => some []
  | l :: rest => l.expand.bind fun a => (expandScript rest).map fun b => a ++ b

end Sys2Proof.Machine
end

