-- ==== Sys2Proof/Laws/Script.lean ====
section
/-! SUPPORT. The host-script notation: a command line writes the assembled word of its command, and a script is an
assembly error exactly where a line of it names a command without a word (30_encoding.md R80, R81). -/

namespace Sys2Proof

/-- The assembler answers the command's word exactly for a well-formed command (R80). -/
theorem assemble_eq_some_iff (i : Instr) (v : Word) : assemble i = some v ↔ i.wellFormed = true ∧ encode i = v := by
  simp [assemble]

/-- The assembler refuses exactly the ill-formed commands (R80). -/
@[simp] theorem assemble_eq_none_iff (i : Instr) : assemble i = none ↔ i.wellFormed = false := by
  simp [assemble]

namespace Machine

/-- `CMD m` writes the assembled word of m to offset 0x00, and is only then a transaction (R81). -/
theorem writeCommand_eq_some_iff (i : Instr) (c : HostAction) :
    writeCommand i = some c ↔ i.wellFormed = true ∧ c = .csrWrite 0x00 (encode i) := by
  simp only [writeCommand, Option.map_eq_some_iff, assemble_eq_some_iff]
  constructor
  · rintro ⟨v, ⟨h, rfl⟩, rfl⟩
    exact ⟨h, rfl⟩
  · rintro ⟨h, rfl⟩
    exact ⟨encode i, ⟨h, rfl⟩, rfl⟩

@[simp] theorem writeCommand_eq_none_iff (i : Instr) : writeCommand i = none ↔ i.wellFormed = false := by
  simp [writeCommand]

/-- The only lines without an expansion are the `CMD m` of a command without a word (R80). -/
theorem expand_eq_none_iff (l : ScriptLine) : l.expand = none ↔ ∃ i, l = .cmd i ∧ i.wellFormed = false := by
  cases l <;> simp [ScriptLine.expand, Instr.wellFormed]

@[simp] theorem expandScript_nil : expandScript [] = some [] := rfl

@[simp] theorem expandScript_cons (l : ScriptLine) (rest : List ScriptLine) :
    expandScript (l :: rest) = l.expand.bind fun a => (expandScript rest).map fun b => a ++ b := rfl

/-- A script has no expansion exactly if one of its lines has none. -/
theorem expandScript_eq_none_iff (lines : List ScriptLine) :
    expandScript lines = none ↔ ∃ l ∈ lines, l.expand = none := by
  induction lines with
  | nil => simp
  | cons l rest ih => cases h : l.expand <;> simp [h, ih]

/-- Two scripts one after the other expand to their actions one after the other. -/
theorem expandScript_append (p q : List ScriptLine) :
    expandScript (p ++ q) = (expandScript p).bind fun a => (expandScript q).map fun b => a ++ b := by
  induction p with
  | nil => simp
  | cons l rest ih =>
    rw [List.cons_append, expandScript_cons, expandScript_cons, ih]
    cases l.expand <;> cases expandScript rest <;> cases expandScript q <;> simp

end Machine

end Sys2Proof
end

