-- ==== Sys2Proof/Laws/Step.lean ====
section
/-! SUPPORT. What one step can do, said once: the inversions of a host action and of the step. -/

namespace Sys2Proof.Machine

/-- A host register write of `v` at `offset`, by the register it reaches. -/
inductive WriteOutcome (offset : Nat) (v : Word) (s : State) : State → Prop where
  | cmd (t : State) (h : offset = 0x00) (hc : CmdOutcome v s t) : WriteOutcome offset v s t
  | status (h : offset = 0x04) : WriteOutcome offset v s (writeStatus v s)
  | seedLo (h : offset = 0x08) : WriteOutcome offset v s { s with seed := joinHalves (highHalf s.seed) v }
  | seedHi (h : offset = 0x0C) : WriteOutcome offset v s { s with seed := joinHalves v (lowHalf s.seed) }
  | len (h : offset = 0x10) : WriteOutcome offset v s { s with len := v }
  | addr (h : offset = 0x14) : WriteOutcome offset v s { s with addr := v }
  | dataLo (h : offset = 0x18) : WriteOutcome offset v s { s with data := joinHalves (highHalf s.data) v }
  | dataHi (h : offset = 0x1C) : WriteOutcome offset v s { s with data := joinHalves v (lowHalf s.data) }
  | ignored (h : 0x20 ≤ offset) : WriteOutcome offset v s s

/-- An aligned write inside the window answers a next state, one of `WriteOutcome`. -/
theorem csrWrite_outcome {offset : Nat} (v : Word) (s : State) (h : offset < 0x40) (h4 : offset % 4 = 0) :
    ∃ t, hostAction (.csrWrite offset v) s = .next t ∧ WriteOutcome offset v s t := by
  obtain ⟨t, ht, ho⟩ := writeCmd_outcome v s
  have hk : ∃ k < 16, offset = 4 * k := ⟨offset / 4, by omega, by omega⟩
  obtain ⟨k, hk, rfl⟩ := hk
  unfold hostAction
  simp only [csrAt_ok h h4]
  interval_cases k
  · exact ⟨t, ht, .cmd t rfl ho⟩
  · exact ⟨_, rfl, .status rfl⟩
  · exact ⟨_, rfl, .seedLo rfl⟩
  · exact ⟨_, rfl, .seedHi rfl⟩
  · exact ⟨_, rfl, .len rfl⟩
  · exact ⟨_, rfl, .addr rfl⟩
  · exact ⟨_, rfl, .dataLo rfl⟩
  · exact ⟨_, rfl, .dataHi rfl⟩
  all_goals exact ⟨_, rfl, .ignored (by decide)⟩

/-- What an admitted host action does. -/
inductive HostOutcome (s : State) : HostAction → State → Prop where
  | csrWrite (offset : Nat) (v : Word) (t : State) (ho : offset < 0x40) (h4 : offset % 4 = 0)
      (hw : WriteOutcome offset v s t) : HostOutcome s (.csrWrite offset v) t
  | csrRead (offset : Nat) (ho : offset < 0x40) (h4 : offset % 4 = 0) :
      HostOutcome s (.csrRead offset) (readCsr (csrNamed offset) s)
  | kmemWrite (a : Nat) (b : Byte) (ha : a < s.kmem.size) :
      HostOutcome s (.kmemWrite a b) (noteDirty a { s with kmem := s.kmem.write a b })
  | kmemRead (a : Nat) (ha : a < s.kmem.size) :
      HostOutcome s (.kmemRead a) (noteRead (.kmem (s.kmem.read a)) s)
  | pollAgain (h : (statusWord s).getLsbD 0 = true) :
      HostOutcome s .poll { readCsr .status s with program := .poll :: s.program }
  | pollDone (h : (statusWord s).getLsbD 0 = false) : HostOutcome s .poll (readCsr .status s)

/-- An admitted host action answers a next state, and any other one is refused. -/
theorem hostAction_outcome (a : HostAction) (s : State) :
    (admitted s.kmem.size a = true ∧ ∃ t, hostAction a s = .next t ∧ HostOutcome s a t) ∨
      (admitted s.kmem.size a = false ∧ ∃ r, hostAction a s = .refused r) := by
  cases a with
  | csrWrite offset v =>
    by_cases h : offset < 0x40 ∧ offset % 4 = 0
    · obtain ⟨t, ht, ho⟩ := csrWrite_outcome v s h.1 h.2
      exact .inl ⟨by simp [admitted, h], t, ht, .csrWrite _ _ _ h.1 h.2 ho⟩
    · obtain ⟨e, he⟩ := csrAt_error h
      exact .inr ⟨by simpa [admitted] using h, e, by simp [hostAction, he]⟩
  | csrRead offset =>
    by_cases h : offset < 0x40 ∧ offset % 4 = 0
    · exact .inl ⟨by simp [admitted, h], _, by simp only [hostAction, csrAt_ok h.1 h.2], .csrRead _ h.1 h.2⟩
    · obtain ⟨e, he⟩ := csrAt_error h
      exact .inr ⟨by simpa [admitted] using h, e, by simp [hostAction, he]⟩
  | csrOtherWidth w offset => exact .inr ⟨rfl, _, rfl⟩
  | kmemWrite a b =>
    by_cases h : a < s.kmem.size
    · exact .inl ⟨by simp [admitted, h], _, by simp only [hostAction, hostKmemWrite, if_pos h], .kmemWrite _ _ h⟩
    · exact .inr ⟨by simp [admitted, h], .kmemBeyondSize, by simp only [hostAction, hostKmemWrite, if_neg h]⟩
  | kmemRead a =>
    by_cases h : a < s.kmem.size
    · exact .inl ⟨by simp [admitted, h], _, by simp only [hostAction, hostKmemRead, if_pos h], .kmemRead _ h⟩
    · exact .inr ⟨by simp [admitted, h], .kmemBeyondSize, by simp only [hostAction, hostKmemRead, if_neg h]⟩
  | poll =>
    refine .inl ⟨rfl, _, rfl, ?_⟩
    unfold pollStatus
    cases h : (statusWord s).getLsbD 0 with
    | true => exact .pollAgain h
    | false => exact .pollDone h

/-- What a step does; `u` is the state whose turn is used up (and whose host program has moved past the action). -/
inductive StepOutcome (s : State) : State → Prop where
  | engine (h : nextAgent s = .engine) : StepOutcome s (engineStep (takeTurn s))
  | reset (h : nextAgent s = .reset) : StepOutcome s (resetBlock (takeTurn s))
  | powerOn (h : nextAgent s = .powerOn) : StepOutcome s (powerOnBlock (takeTurn s))
  | hostOver (h : nextAgent s = .host) (hp : s.program = []) : StepOutcome s (takeTurn s)
  | host (a : HostAction) (rest : List HostAction) (t : State) (h : nextAgent s = .host) (hp : s.program = a :: rest)
      (ho : HostOutcome { takeTurn s with program := rest } a t) : StepOutcome s t

/-- The inversion of the step. -/
theorem step_outcome {s t : State} (h : step s = .next t) : StepOutcome s t := by
  unfold step at h
  cases hn : nextAgent s with
  | engine => rw [hn] at h; cases h; exact .engine hn
  | reset => rw [hn] at h; cases h; exact .reset hn
  | powerOn => rw [hn] at h; cases h; exact .powerOn hn
  | host =>
    rw [hn] at h
    unfold agentMove hostStep at h
    rw [takeTurn_program] at h
    cases hp : s.program with
    | nil => rw [hp] at h; cases h; exact .hostOver hn hp
    | cons a rest =>
      rw [hp] at h
      rcases hostAction_outcome a { takeTurn s with program := rest } with ⟨-, t', ht', ho⟩ | ⟨-, r, hr⟩
      · rw [show hostAction a { takeTurn s with program := rest } = .next t from h] at ht'
        cases ht'
        exact .host a rest t hn hp ho
      · rw [show hostAction a { takeTurn s with program := rest } = .next t from h] at hr
        cases hr

/-- A step at the host's turn is its next action, its turn used up and its program moved past the action. -/
theorem step_host {s : State} {a : HostAction} {rest : List HostAction} (h : nextAgent s = .host)
    (hp : s.program = a :: rest) : step s = hostAction a { s with schedule := s.schedule.tail, program := rest } := by
  unfold step
  rw [h, agentMove, hostStep, takeTurn_program, hp]
  rfl

/-- A run of one more step. -/
theorem runFor_next {k : Nat} {s t : State} (h : step s = .next t) : runFor (k + 1) s = runFor k t := by
  rw [runFor, h]

theorem runFor_refused {k : Nat} {s : State} {r : Refusal} (h : step s = .refused r) :
    runFor (k + 1) s = .refused r := by
  rw [runFor, h]

/-- The host's action at its turn, in terms of its program. -/
theorem hostTurnAction_of_program {s : State} {a : HostAction} {rest : List HostAction} (h : nextAgent s = .host)
    (hp : s.program = a :: rest) : hostTurnAction s = some a := by
  simp [hostTurnAction, h, hp]

end Sys2Proof.Machine
end

