-- ==== Sys2Proof/Tests/Slice0.lean ====
section
/-! SUPPORT. The model's own tests. Expected words and values are those of 30_encoding.md and of the vectors of
95_test_vectors.md, named beside each test; the last part shows that the hypotheses of the statements can be met. -/

namespace Sys2Proof.Tests

open Sys2Proof.Machine Sys2Proof.Claims

/-! ### Helpers: small states over reset with KMEM_SIZE = 256, as the vectors take it -/

/-- The reset state with a KMEM of 256 bytes whose power-on draw is 0. -/
def fresh : State := { State.reset with kmem := ⟨256, 0, []⟩ }

/-- ACC and DATA set. -/
def withAcc (acc data : DWord) : State := { fresh with acc := acc, data := data }

/-- SEED and LEN set. -/
def withSeed (seed : DWord) (len : Word) : State := { fresh with seed := seed, len := len }

/-- Bytes in KMEM at an address, as ADDR and LEN, and SEED. -/
def withBuffer (addr : Word) (bytes : List Byte) (seed : DWord) : State :=
  { fresh with
    addr := addr
    len := BitVec.ofNat 32 bytes.length
    seed := seed
    kmem := (bytes.foldl (fun p b => (p.1 + 1, p.2.write p.1 b)) (addr.toNat, fresh.kmem)).2 }

/-- A HASH32 pending over bytes 0x10 to 0x14 (70_reset_and_hazards.md R176). -/
def pending : State :=
  { withBuffer 0x10 [0x68, 0x65, 0x6C, 0x6C, 0x6F] 0 with
    busy := true, pendResult := 0xE56129CB, pendWidth := .m32, pendRange := some (0x10, 5) }

/-- The ACC a command leaves when it is issued and waited out. -/
def accAfter (i : Instr) (s : State) : DWord := (afterCommand i s).acc

/-- STATUS after one host action. -/
def statusAfter (a : HostAction) (s : State) : Option Word :=
  match hostAction a s with
  | .next t => some (statusWord t)
  | .fault _ => none
  | .refused _ => none

/-! ### WellFormed (R72, R80): each check refuses an ill-formed term -/

theorem test_wf_tail32_refuses_4 : (Instr.tail32 4).wellFormed = false := by decide
theorem test_wf_tail64_refuses_8 : (Instr.tail64 8).wellFormed = false := by decide
theorem test_assemble : assemble (.tail32 4) = none ∧ assemble (.tail64 7) = some 0x7B := by decide

/-! ### Decoding: each constructor's word, written out from the patterns of R75 -/

theorem test_decode_nop : decode 0b00000000000000000000000000000000 = .ok .nop := by decide
theorem test_decode_init32 : decode 0b00000000000000000000000000000001 = .ok .init32 := by decide
theorem test_decode_word32 : decode 0b00000000000000000000000000000010 = .ok .word32 := by decide
theorem test_decode_tail32 : decode 0b00000000000000000000000000110011 = .ok (.tail32 3) := by decide
theorem test_decode_final32 : decode 0b00000000000000000000000000000100 = .ok .final32 := by decide
theorem test_decode_hash32 : decode 0b00000000000000000000000000000101 = .ok .hash32 := by decide
theorem test_decode_init64 : decode 0b00000000000000000000000000001001 = .ok .init64 := by decide
theorem test_decode_word64 : decode 0b00000000000000000000000000001010 = .ok .word64 := by decide
theorem test_decode_tail64 : decode 0b00000000000000000000000001111011 = .ok (.tail64 7) := by decide
theorem test_decode_final64 : decode 0b00000000000000000000000000001100 = .ok .final64 := by decide
theorem test_decode_hash64 : decode 0b00000000000000000000000000001101 = .ok .hash64 := by decide

/-- D-6 to D-17: the illegal words, by the case of R77 each falls under. -/
theorem test_decode_illegal :
    decode 0x06 = .error .reservedOperation ∧ decode 0x07 = .error .reservedOperation ∧
    decode 0x08 = .error .reservedOperation ∧ decode 0x0E = .error .reservedOperation ∧
    decode 0x0F = .error .reservedOperation ∧ decode 0x43 = .error .tail32Count ∧ decode 0x8B = .error .tail64Count ∧
    decode 0x11 = .error .countWithoutTail ∧ decode 0x10 = .error .countWithoutTail ∧
    decode 0x100 = .error .reservedBits ∧ decode 0x80000005 = .error .reservedBits ∧
    decode 0xFFFFFFFF = .error .reservedBits := by decide

/-! ### The commands -/

/-- NOP-2. -/
theorem test_nop : accAfter .nop (withAcc 0x0123456789ABCDEF 0) = 0x0123456789ABCDEF := by decide
/-- I32-1. -/
theorem test_init32 : accAfter .init32 (withSeed 0x12345678 5) = 0x1234567D := by decide
/-- I32-4: SEED_HI is ignored. -/
theorem test_init32_seed_hi : accAfter .init32 (withSeed 0xDEADBEEF00000000 0) = 0 := by decide
/-- W32-8. -/
theorem test_word32 : accAfter .word32 (withAcc 0x12345678 0x04030201) = 0xADB9E2B1 := by decide
/-- W32-7. -/
theorem test_word32_ones : accAfter .word32 (withAcc 0xFFFFFFFF 0xFFFFFFFF) = 0x11BABB10 := by decide
/-- T32-2 to T32-4. -/
theorem test_tail32 : accAfter (.tail32 1) (withAcc 0 0xAABBCCDD) = 0x4436A5A1 ∧
    accAfter (.tail32 2) (withAcc 0 0xAABBCCDD) = 0x8A5961A1 ∧
    accAfter (.tail32 3) (withAcc 0 0xAABBCCDD) = 0x2A3061A1 := by decide
/-- T32-1 and R119: n = 0 keeps ACC[31:0] and writes ACC[63:32] <- 0. -/
theorem test_tail32_zero : accAfter (.tail32 0) (withAcc 0xFFFFFFFF12345678 0xAABBCCDD) = 0x12345678 := by decide
/-- F32-6. -/
theorem test_final32 : accAfter .final32 (withAcc 0x12345678 0) = 0x499728CD := by decide
/-- X-1: ACC[63:32] is ignored and written 0. -/
theorem test_final32_high : accAfter .final32 (withAcc 0xFFFFFFFF00000001 0) = 0x5BD15E36 := by decide
/-- H32-6 with seed 0x9747B28C, one word and one tail byte. -/
theorem test_hash32 : accAfter .hash32 (withBuffer 0xFB [1, 2, 3, 4, 5] 0x9747B28C) = 0x39690ED6 := by decide
/-- H32-X8: a byte above 0x7F is unsigned. -/
theorem test_hash32_unsigned : accAfter .hash32 (withBuffer 3 [0x80] 0) = 0x9B891BB0 := by decide
/-- I64-4: the length is zero-extended before the multiply. -/
theorem test_init64_zext : accAfter .init64 (withSeed 0 0xFFFFFFFF) = 0x952D4201A42E166B := by decide
/-- I64-5. -/
theorem test_init64 : accAfter .init64 (withSeed 0x0123456789ABCDEF 0x0B) = 0x883076337BAEC488 := by decide
/-- W64-8. -/
theorem test_word64 : accAfter .word64 (withAcc 0x883076337BAEC488 0x0807060504030201) = 0x003F073B216A9F93 := by decide
/-- X-2. -/
theorem test_word64_mixed : accAfter .word64 (withAcc 1 1) = 0x828272EE113E8C91 := by decide
/-- T64-4 and T64-8. -/
theorem test_tail64 : accAfter (.tail64 3) (withAcc 0x0123456789ABCDEF 0x1122334455667788) = 0xA4ED7E0C3E7C3CF3 ∧
    accAfter (.tail64 7) (withAcc 0 0x1122334455667788) = 0xFEA688BCE5765A28 := by decide
/-- F64-6. -/
theorem test_final64 : accAfter .final64 (withAcc 0x0123456789ABCDEF 0) = 0x1B8D96B11CF99946 := by decide
/-- H64-X6: an unaligned buffer of one word and three tail bytes. -/
theorem test_hash64 :
    accAfter .hash64 (withBuffer 3 [1, 2, 3, 4, 5, 6, 7, 8, 9, 10, 11] 0x0123456789ABCDEF) = 0xF7D7E9FEFF7D9445 := by
  decide
/-- H64-X5: the top of KMEM. -/
theorem test_hash64_top : accAfter .hash64 (withBuffer 0xFC [0xDE, 0xAD, 0xBE, 0xEF] 0) = 0x834BE4B479B39309 := by decide

/-! ### Errors, registers, hazards, reset -/

/-- D-6 / E-1, E-13, E-14. -/
theorem test_illegal_word : statusAfter (.csrWrite 0x00 0x06) fresh = some 0x12 ∧
    statusAfter (.csrWrite 0x04 0x2) { fresh with err := true, errCode := 2 } = some 0 ∧
    statusAfter (.csrWrite 0x04 0x1) { fresh with err := true, errCode := 2 } = some 0x22 := by decide
/-- E-2, E-3, E-4. -/
theorem test_range : statusAfter (.csrWrite 0x00 0x05) { fresh with addr := 0xFC, len := 4 } = some 0x01 ∧
    statusAfter (.csrWrite 0x00 0x05) { fresh with addr := 0xFD, len := 4 } = some 0x22 ∧
    statusAfter (.csrWrite 0x00 0x0D) { fresh with addr := 0xFFFFFFFF, len := 1 } = some 0x22 := by decide
/-- E-9, E-10, E-11, E-15. -/
theorem test_overrun : statusAfter (.csrWrite 0x00 0x01) pending = some 0x33 ∧
    statusAfter (.csrWrite 0x00 0x06) pending = some 0x33 ∧
    statusAfter (.csrWrite 0x00 0x05) { fresh with addr := 0xFD, len := 4, err := true, errCode := 1 } = some 0x12 ∧
    statusAfter (.csrWrite 0x04 0xFFFFFFFF) { pending with err := true, errCode := 3 } = some 0x01 := by decide
/-- Z-1, Z-2: only a KMEM write inside the range dirties the pending command. -/
theorem test_dirty : (noteDirty 0x12 pending).pendDirty = true ∧ (noteDirty 0x15 pending).pendDirty = false := by decide
/-- M-1 to M-4. -/
theorem test_memRead : memRead (withBuffer 3 [1, 2, 3, 4, 5, 6, 7, 8] 0).kmem 3 4 = 0x04030201 ∧
    memRead (withBuffer 3 [1, 2, 3, 4, 5, 6, 7, 8] 0).kmem 3 8 = 0x0807060504030201 ∧
    memRead (withBuffer 3 [9, 10, 11] 0).kmem 3 3 = 0x000B0A09 ∧ memRead (withBuffer 3 [0x80] 0).kmem 3 1 = 0x80 := by
  decide
/-- G-6 and R98. -/
theorem test_write_seed_hi :
    hostAction (.csrWrite 0x0C 0x01234567) fresh = .next { fresh with seed := 0x0123456700000000 } := by rfl
/-- R83 and R81: the transactions of `CMD TAIL32 1` and `CLRERR`. -/
theorem test_script : expandScript [.cmd (.tail32 1), .clrErr] = some [.csrWrite 0x00 0x13, .csrWrite 0x04 0x2] := by
  decide
/-- R80 and R81: a tail count without a word is an assembly error, so its `CMD` line writes nothing. -/
theorem test_script_assembly_error : expandScript [.clrErr, .cmd (.tail32 4)] = none ∧
    writeCommand (.tail32 (2 ^ 28)) = none ∧ writeCommand (.tail64 7) = some (.csrWrite 0x00 0x7B) := by decide
/-- A command word placed after reset runs at the very next step (D-5), and reset's own KMEM has the canonical form. -/
theorem test_fetch_after_reset : decodeTableWord 32 0x0D = some .hash64 ∧
    step (State.reset.withFetchWord 32 0x0D) = exec .hash64 State.reset := by
  constructor <;> rfl

/-! ### Witnesses: the hypotheses of each statement can be met, clause by clause -/

theorem witness_DecodeOfEncode : (Instr.tail32 3).wellFormed = true ∧ (Instr.tail64 7).wellFormed = true := by decide
theorem witness_EncodeOfDecode : decode 0x33 = .ok (.tail32 3) ∧ decode 0x7B = .ok (.tail64 7) := by decide

theorem witness_StepRunsDecodedCommand :
    nextAgent (fresh.withFetchWord 32 0x33) = .host ∧
      (fresh.withFetchWord 32 0x33).program = .csrWrite 0x00 0x33 :: [] ∧ decode 0x33 = .ok (.tail32 3) := by decide
theorem witness_StepRunsFetchedWord : decodeTableWord 32 0x33 = some (.tail32 3) := by decide

theorem witness_CmdWriteChecksInOrder :
    pending.busy = true ∧
    (fresh.busy = false ∧ decode 0x06 = .error .reservedOperation) ∧
    (decode 0x05 = .ok .hash32 ∧ (withSeed 0 257).len ≠ 0 ∧
      (withSeed 0 257).kmem.size < (withSeed 0 257).addr.toNat + (withSeed 0 257).len.toNat) ∧
    (decode 0x0D = .ok .hash64 ∧
      (withSeed 0 256).addr.toNat + (withSeed 0 256).len.toNat ≤ (withSeed 0 256).kmem.size) := by decide

theorem witness_EngineStepCompletes :
    fresh.busy = false ∧ (pending.busy = true ∧ pending.pendDirty = false) ∧
    ((noteDirty 0x10 pending).busy = true ∧ (noteDirty 0x10 pending).pendDirty = true ∧
      (noteDirty 0x10 pending).pendWidth = .m32) ∧
    ({ noteDirty 0x14 pending with pendWidth := .m64 }.busy = true ∧
      { noteDirty 0x14 pending with pendWidth := .m64 }.pendDirty = true ∧
      { noteDirty 0x14 pending with pendWidth := .m64 }.pendWidth = .m64) := by decide

/-- For PendingCommandEnds and OverrunLeavesPending, and every clause `overruns`. -/
theorem witness_busy : pending.busy = true := by decide
/-- For every clause about an idle state. -/
theorem witness_idle : fresh.busy = false ∧ fresh.acc = 0 ∧ fresh.len = 0 ∧ fresh.err = false ∧ fresh.errCode = 0 := by
  decide
theorem witness_CommandFrame : exec .word32 fresh = .next (issued .word32 fresh) ∧
    exec .word32 pending = .next (raiseError .overrun pending) ∧ (issued .word32 fresh).busy = true := by
  refine ⟨?_, ?_, ?_⟩ <;> rfl
theorem witness_OperandsLatchedAtIssue : pending.busy = true ∧ Csr.dataHi ∈ [Csr.seedLo, Csr.seedHi, Csr.len, Csr.addr,
      Csr.dataLo, Csr.dataHi] ∧
    0x15 < pending.kmem.size ∧ pending.pendRange = some (0x10, 5) ∧ ¬(0x10 ≤ 0x15 ∧ 0x15 < 0x10 + 5) ∧
    ¬(0x10 ≤ 0x0F ∧ 0x0F < 0x10 + 5) := by decide
theorem witness_M32UsesLowHalfOfAcc : Instr.hash32 ∈ [Instr.init32, .word32, .final32, .hash32] := by decide

theorem witness_NopRule : (withAcc 0x5BD15E36 0).busy = false ∧ (withAcc 0x5BD15E36 0).acc = 0x000000005BD15E36 ∧
    (withAcc 0x5BD15E36 0).err = false ∧ (withAcc 0x5BD15E36 0).errCode = 0 := by decide
theorem witness_Init32Rule : (withSeed 7 0).len = 0 ∧ (withSeed 5 5).seed.extractLsb' 0 32 = (withSeed 5 5).len ∧
    (withSeed 0x12345678 5).seed.extractLsb' 0 32 = 0x12345678 ∧ (withSeed 0x12345678 5).len = 5 := by decide
theorem witness_Word32Rule : (withAcc 0x12345678 0x04030201).acc = 0x12345678 ∧
    (withAcc 0x12345678 0x04030201).data.extractLsb' 0 32 = 0x04030201 := by decide
theorem witness_Tail32Rule : (0xAABBCCDD : Word) &&& mask32 3 = 0x00BBCCDD &&& mask32 3 ∧
    (0xDD : Word) ^^^ (0xAABBCCDD &&& mask32 1) = 0 ∧
    (withAcc 0 0xAABBCCDD).data.extractLsb' 0 32 = 0xAABBCCDD ∧
    (withAcc 0 0x00BBCCDD).data.extractLsb' 0 32 = 0x00BBCCDD ∧ (withAcc 0 0x00BBCCDD).acc = 0 := by decide
theorem witness_Final32Rule : (withAcc 0 0).acc = 0 ∧ (withAcc 1 0).acc = 0x00000001 := by decide
theorem witness_hashCompletes : (withSeed 0 0).len = 0 ∧
    (withBuffer 0xFB [1, 2, 3, 4, 5] 0).addr.toNat + (withBuffer 0xFB [1, 2, 3, 4, 5] 0).len.toNat ≤
      (withBuffer 0xFB [1, 2, 3, 4, 5] 0).kmem.size ∧ (withBuffer 0xFB [1, 2, 3, 4, 5] 0).busy = false := by decide
theorem witness_rangeChecked : (withBuffer 0xFC [1, 2, 3, 4, 5] 0).len ≠ 0 ∧
    (withBuffer 0xFC [1, 2, 3, 4, 5] 0).kmem.size <
      (withBuffer 0xFC [1, 2, 3, 4, 5] 0).addr.toNat + (withBuffer 0xFC [1, 2, 3, 4, 5] 0).len.toNat := by decide
/-- The clauses of Hash32Rule and Hash64Rule on a write in the range, on LEN, and on the bytes of the example. -/
theorem witness_HashRules :
    ((withBuffer 0xFB [1, 2, 3, 4, 5] 0).addr.toNat ≤ 0xFF ∧
      0xFF < (withBuffer 0xFB [1, 2, 3, 4, 5] 0).addr.toNat + (withBuffer 0xFB [1, 2, 3, 4, 5] 0).len.toNat) ∧
    (3#32).toNat < 4 ∧ (7#32).toNat < 8 ∧ (8#32).toNat % 4 = 0 ∧ (8#32).toNat % 8 = 0 ∧
    (withBuffer 3 [1, 2, 3, 4, 5] 0).kmem.read 3 = 0x01 ∧ (withBuffer 3 [1, 2, 3, 4, 5] 0).kmem.read 4 = 0x02 ∧
    (withBuffer 3 [1, 2, 3, 4, 5] 0).kmem.read 5 = 0x03 ∧ (withBuffer 3 [1, 2, 3, 4, 5] 0).kmem.read 6 = 0x04 ∧
    (withBuffer 3 [1, 2, 3, 4, 5] 0).kmem.read 7 = 0x05 := by decide
theorem witness_Init64Rule : (withSeed 9 0).len = 0 ∧ (withSeed 0 1).len = 1 ∧ (withSeed 0 1).seed = 0 ∧
    (withSeed 0 0xFFFFFFFF).len = 0xFFFFFFFF ∧ (withSeed 0x0123456789ABCDEF 11).seed = 0x0123456789ABCDEF ∧
    (withSeed 0x0123456789ABCDEF 11).len = 11 := by decide
theorem witness_Word64Rule : (withAcc 0 1).acc = 0 ∧ (withAcc 0 1).data = 1 ∧ (withAcc 1 0).acc = 1 ∧
    (withAcc 1 0).data = 0 := by decide
theorem witness_Tail64Rule :
    (0x1122334455667788 : DWord) &&& mask64 7 = 0x0022334455667788 &&& mask64 7 ∧
    (withAcc 0 0x1122334455667788).data = 0x1122334455667788 ∧
    (withAcc 0 0x0022334455667788).data = 0x0022334455667788 ∧ (withAcc 0 0x0022334455667788).acc = 0 := by decide
theorem witness_Final64Rule : (withAcc 0 0).acc = 0 ∧ (withAcc 1 0).acc = 1 := by decide

/-- Two states that agree on SEED[31:0], LEN and the bytes of the buffer, at different addresses. -/
theorem witness_Determinism :
    (withBuffer 3 [1, 2] 7).seed = (withBuffer 0xFE [1, 2] 7).seed ∧
    (withBuffer 3 [1, 2] 7).len = (withBuffer 0xFE [1, 2] 7).len ∧
    (∀ j < (withBuffer 3 [1, 2] 7).len.toNat,
      (withBuffer 3 [1, 2] 7).kmem.read ((withBuffer 3 [1, 2] 7).addr.toNat + j) =
        (withBuffer 0xFE [1, 2] 7).kmem.read ((withBuffer 0xFE [1, 2] 7).addr.toNat + j)) ∧
    (withBuffer 3 [1, 2] 7).addr ≠ (withBuffer 0xFE [1, 2] 7).addr := by decide

theorem witness_StatusWriteClearsError : (0x2 : Word).getLsbD 1 = true ∧ (0xFFFFFFFD : Word).getLsbD 1 = false := by decide
theorem witness_RegisterReads : pending.busy = true ∧ fresh.busy = false := by decide
theorem witness_RaiseKeepsFirstError : fresh.err = false ∧ (raiseError .range fresh).err = true := by decide

/-- ERR = 1 and a step that answers a next state: the host rejects nothing and has no action left. -/
theorem witness_ErrorIsSticky :
    (raiseError .range fresh).err = true ∧ step (raiseError .range fresh) = .next (raiseError .range fresh) := by
  constructor <;> rfl
theorem witness_CleanErrorProvesAcceptance :
    hostTurnAction (fresh.withFetchWord 32 0x02) = some (.csrWrite 0x00 0x02) ∧
      step (fresh.withFetchWord 32 0x02) = .next (issued .word32 fresh) ∧ (issued .word32 fresh).err = false := by
  refine ⟨?_, ?_, ?_⟩ <;> rfl
theorem witness_HostKmemAccess : fresh.kmem.wf ∧ 0xFF < fresh.kmem.size ∧ fresh.kmem.size ≤ 0x100 := by decide
/-- A clean pending command, and the host's write of a byte of its range at the next turn. -/
theorem witness_OnlyRangeWritesDirty :
    pending.busy = true ∧ pending.pendRange = some (0x10, 5) ∧ 0x10 ≤ 0x14 ∧ 0x14 < 0x10 + 5 ∧ 0x14 < pending.kmem.size ∧
    { pending with program := [.kmemWrite 0x14 0], schedule := [.host] }.pendDirty = false ∧
    step { pending with program := [.kmemWrite 0x14 0], schedule := [.host] } =
      .next (noteDirty 0x14 { pending with kmem := pending.kmem.write 0x14 0 }) ∧
    (noteDirty 0x14 { pending with kmem := pending.kmem.write 0x14 0 }).pendDirty = true := by
  refine ⟨?_, ?_, ?_, ?_, ?_, ?_, ?_, ?_⟩ <;> first | rfl | decide
theorem witness_MemReadLittleEndian : (8 : Nat) ≤ 8 ∧ (7 : Nat) < 8 := by decide
theorem witness_OutsideInterfaceIsRefused : (0x3D < 0x40 ∧ 0x3D % 4 ≠ 0) ∧ 0x40 ≤ 0x40 := by decide
/-- A host action outside the interface and one inside it. -/
theorem witness_OnlyInterfaceViolationsStop :
    hostTurnAction { fresh with program := [.kmemRead 0x100] } = some (.kmemRead 0x100) ∧
    admitted 0x100 (.kmemRead 0x100) = false ∧ admitted 0x100 (.kmemRead 0xFF) = true := by decide
theorem witness_FinishedRunStays : runOver fresh = true ∧ fresh.schedule = [] := by decide

/-- A state that meets the whole invariant with a command pending, and a step of it. -/
theorem witness_StepKeepsInvariant : pending.Inv ∧ step pending = .next (engineStep pending) := by
  refine ⟨by decide, rfl⟩
/-- A step for the statements about what changes ACC, BUSY and the operand registers. -/
theorem witness_BusyRisesAndFalls :
    (step (fresh.withFetchWord 32 0x02) = .next (issued .word32 fresh) ∧ (fresh.withFetchWord 32 0x02).busy = false ∧
      (issued .word32 fresh).busy = true) ∧
    (step pending = .next (engineStep pending) ∧ pending.busy = true ∧ (engineStep pending).busy = false) := by
  refine ⟨⟨?_, ?_, ?_⟩, ?_, ?_, ?_⟩ <;> rfl
theorem witness_OnlyHostWritesOperands :
    step { fresh with program := [.csrWrite 0x10 9] } = .next { fresh with len := 9 } ∧
      nextAgent { fresh with program := [.csrWrite 0x10 9] } = .host := by
  constructor <;> rfl
theorem witness_ContractMakesNoDraw :
    (pending.busy = true → pending.pendDirty = false) ∧ hostTurnAction pending = none ∧ nextAgent pending = .engine ∧
    hostTurnAction { pending with program := [.kmemWrite 0x15 0], schedule := [.host] } = some (.kmemWrite 0x15 0) ∧
    keepsContract pending (.kmemWrite 0x15 0) = true ∧ keepsContract pending (.kmemWrite 0x14 0) = false := by decide

end Sys2Proof.Tests
end

/-! ### Proofs: the effect of one host action and of the engine's move, as frames -/

section
namespace Sys2Proof.Machine

/-- The forms of the state an admitted host action can leave; when each comes is said only as far as frames need it.
`blockKept` takes together the reads, POLL and the writes that change nothing. -/
inductive HostEffect (s : State) : HostAction → State → Prop where
  | raised (v : Word) (e : ErrorCode) : HostEffect s (.csrWrite 0x00 v) (raiseError e s)
  | issued (v : Word) (i : Instr) (hb : s.busy = false) (hd : decode v = .ok i) (hw : i.wellFormed = true)
      (hr : isHash i = true → bufferOutOfRange s = false) : HostEffect s (.csrWrite 0x00 v) (issued i s)
  | cleared (v : Word) : HostEffect s (.csrWrite 0x04 v) (clearError s)
  | seedLo (v : Word) : HostEffect s (.csrWrite 0x08 v) { s with seed := joinHalves (highHalf s.seed) v }
  | seedHi (v : Word) : HostEffect s (.csrWrite 0x0C v) { s with seed := joinHalves v (lowHalf s.seed) }
  | len (v : Word) : HostEffect s (.csrWrite 0x10 v) { s with len := v }
  | addr (v : Word) : HostEffect s (.csrWrite 0x14 v) { s with addr := v }
  | dataLo (v : Word) : HostEffect s (.csrWrite 0x18 v) { s with data := joinHalves (highHalf s.data) v }
  | dataHi (v : Word) : HostEffect s (.csrWrite 0x1C v) { s with data := joinHalves v (lowHalf s.data) }
  | kmemWrite (a : Nat) (b : Byte) (ha : a < s.kmem.size) :
      HostEffect s (.kmemWrite a b) (noteDirty a { s with kmem := s.kmem.write a b })
  | blockKept (act : HostAction) (program : List HostAction) (reads : List ReadValue) (draws : Nat) :
      HostEffect s act { s with program := program, reads := reads, draws := draws }

/-- A CMD write raises an error or issues the command it decodes (R90). -/
theorem CmdOutcome.effect {v : Word} {s t : State} (h : CmdOutcome v s t) : HostEffect s (.csrWrite 0x00 v) t := by
  cases h with
  | overrun => exact .raised v _
  | illegal => exact .raised v _
  | issued i t hb hd hx =>
    cases exec_next hx with
    | overrun => exact .raised v _
    | illegal => exact .raised v _
    | range => exact .raised v _
    | accepted _ hw hr => exact .issued v i hb hd hw hr

theorem WriteOutcome.effect {offset : Nat} {v : Word} {s t : State} (h : WriteOutcome offset v s t) :
    HostEffect s (.csrWrite offset v) t := by
  cases h with
  | cmd _ ho hc => exact ho ▸ hc.effect
  | status ho =>
    subst ho
    unfold writeStatus
    split
    · exact .cleared v
    · exact .blockKept _ s.program s.reads s.draws
  | seedLo ho => exact ho ▸ .seedLo v
  | seedHi ho => exact ho ▸ .seedHi v
  | len ho => exact ho ▸ .len v
  | addr ho => exact ho ▸ .addr v
  | dataLo ho => exact ho ▸ .dataLo v
  | dataHi ho => exact ho ▸ .dataHi v
  | ignored => exact .blockKept _ s.program s.reads s.draws

theorem HostOutcome.effect {act : HostAction} {s t : State} (h : HostOutcome s act t) : HostEffect s act t := by
  cases h with
  | csrWrite _ _ _ _ _ hw => exact hw.effect
  | csrRead => exact .blockKept _ s.program _ _
  | kmemWrite a b ha => exact .kmemWrite a b ha
  | kmemRead => exact .blockKept _ s.program _ s.draws
  | pollAgain => exact .blockKept _ _ _ _
  | pollDone => exact .blockKept _ s.program _ _

section HostFrames

variable {act : HostAction} {s t : State} (h : HostEffect s act t)

include h

/-- No host action writes ACC. -/
theorem HostEffect.acc_eq : t.acc = s.acc := by cases h <;> rfl

theorem HostEffect.kmem_eq_or_write : t.kmem = s.kmem ∨
    ∃ a b, act = .kmemWrite a b ∧ a < s.kmem.size ∧ t.kmem = s.kmem.write a b := by
  cases h with
  | kmemWrite a b ha => exact .inr ⟨a, b, rfl, ha, rfl⟩
  | _ => exact .inl rfl

theorem HostEffect.busy_stays (hb : s.busy = true) : t.busy = true := by
  cases h with
  | issued => rfl
  | _ => exact hb

/-- The only host action that makes BUSY 1 is the CMD write of a legal word. -/
theorem HostEffect.busy_rises (hb : s.busy = false) (ht : t.busy = true) :
    ∃ v i, act = .csrWrite 0x00 v ∧ decode v = .ok i ∧ i.wellFormed = true := by
  cases h with
  | issued v i _ hd hw => exact ⟨v, i, rfl, hd, hw⟩
  | _ => exact absurd (hb.symm.trans ht) Bool.false_ne_true

/-- The only host action that sets PEND_DIRTY is a KMEM write inside the pending range (R35). -/
theorem HostEffect.dirty_rises (hs : s.pendDirty = false) (ht : t.pendDirty = true) :
    ∃ a b, act = .kmemWrite a b ∧ s.busy = true ∧ inRange s.pendRange a = true := by
  cases h with
  | kmemWrite a b =>
    have : s.busy = true ∧ inRange s.pendRange a = true := by simpa [hs] using ht
    exact ⟨a, b, rfl, this⟩
  | issued => cases ht
  | _ => exact absurd (hs.symm.trans ht) Bool.false_ne_true

theorem HostEffect.seed_eq_or_write :
    t.seed = s.seed ∨ ∃ v, act = .csrWrite 0x08 v ∨ act = .csrWrite 0x0C v := by
  cases h with
  | seedLo v => exact .inr ⟨v, .inl rfl⟩
  | seedHi v => exact .inr ⟨v, .inr rfl⟩
  | _ => exact .inl rfl

theorem HostEffect.len_eq_or_write : t.len = s.len ∨ ∃ v, act = .csrWrite 0x10 v ∧ t.len = v := by
  cases h with
  | len v => exact .inr ⟨v, rfl, rfl⟩
  | _ => exact .inl rfl

theorem HostEffect.addr_eq_or_write : t.addr = s.addr ∨ ∃ v, act = .csrWrite 0x14 v ∧ t.addr = v := by
  cases h with
  | addr v => exact .inr ⟨v, rfl, rfl⟩
  | _ => exact .inl rfl

theorem HostEffect.data_eq_or_write :
    t.data = s.data ∨ ∃ v, act = .csrWrite 0x18 v ∨ act = .csrWrite 0x1C v := by
  cases h with
  | dataLo v => exact .inr ⟨v, .inl rfl⟩
  | dataHi v => exact .inr ⟨v, .inr rfl⟩
  | _ => exact .inl rfl

end HostFrames

/-- The engine's move writes ACC, BUSY and the draw counter and nothing else (R93). -/
theorem engineStep_eq (s : State) :
    ∃ acc draws, engineStep s = { s with acc := acc, busy := false, draws := draws } := by
  cases hb : s.busy with
  | false =>
    rw [engineStep_idle hb, ← hb]
    exact ⟨s.acc, s.draws, rfl⟩
  | true =>
    by_cases hd : s.pendDirty = true
    · exact ⟨_, _, engineStep_dirty hb hd⟩
    · exact ⟨_, s.draws, engineStep_clean hb (Bool.eq_false_of_not_eq_true hd)⟩

section EngineFrames

variable (s : State)

@[simp] theorem engineStep_seed : (engineStep s).seed = s.seed := by
  obtain ⟨_, _, h⟩ := engineStep_eq s; rw [h]
@[simp] theorem engineStep_len : (engineStep s).len = s.len := by
  obtain ⟨_, _, h⟩ := engineStep_eq s; rw [h]
@[simp] theorem engineStep_addr : (engineStep s).addr = s.addr := by
  obtain ⟨_, _, h⟩ := engineStep_eq s; rw [h]
@[simp] theorem engineStep_data : (engineStep s).data = s.data := by
  obtain ⟨_, _, h⟩ := engineStep_eq s; rw [h]
@[simp] theorem engineStep_err : (engineStep s).err = s.err := by
  obtain ⟨_, _, h⟩ := engineStep_eq s; rw [h]
@[simp] theorem engineStep_errCode : (engineStep s).errCode = s.errCode := by
  obtain ⟨_, _, h⟩ := engineStep_eq s; rw [h]
@[simp] theorem engineStep_pendDirty : (engineStep s).pendDirty = s.pendDirty := by
  obtain ⟨_, _, h⟩ := engineStep_eq s; rw [h]
@[simp] theorem engineStep_kmem : (engineStep s).kmem = s.kmem := by
  obtain ⟨_, _, h⟩ := engineStep_eq s; rw [h]

end EngineFrames

/-- An address lies in a pending range exactly when there is one and its bounds hold. -/
theorem inRange_iff (range : Option (Nat × Nat)) (a : Nat) :
    inRange range a = true ↔ ∃ base length, range = some (base, length) ∧ base ≤ a ∧ a < base + length := by
  cases range with
  | none => simp [inRange]
  | some r => simp [inRange, Prod.ext_iff]

end Sys2Proof.Machine
end

/-! ### Proofs: every step keeps the invariant -/

section
namespace Sys2Proof.Machine

/-- Exec of an M32 command has its upper half 0 (R27). -/
theorem highHalf_execResult {i : Instr} (s : State) (h : instrWidth i = .m32) : highHalf (execResult i s) = 0 := by
  cases i with
  | init32 | word32 | tail32 | final32 | hash32 => exact highHalf_zext64 _
  | nop | init64 | word64 | tail64 | final64 | hash64 => cases h

/-- A HASH command that passes the range check latches no range or one inside KMEM. -/
theorem rangeInside_bufferRange {s : State} (h : bufferOutOfRange s = false) :
    rangeInside s.kmem.size (bufferRange s) = true := by
  rw [bufferRange_eq]
  split
  · rfl
  · rename_i hlen
    have hpos : 0 < s.len.toNat := Nat.pos_of_ne_zero (mt (bufferLength_eq_zero s).1 hlen)
    have hin := ((bufferInRange_iff s).1 h).resolve_left hlen
    simp [rangeInside, hpos, hin]

theorem ErrorCode.code_le (e : ErrorCode) : e.code.toNat ≤ 3 := by cases e <;> decide

theorem raiseError_statusLegal (e : ErrorCode) {s : State} (h : StatusLegal s) : StatusLegal (raiseError e s) := by
  refine ⟨?_, fun he => by cases he⟩
  rw [raiseError_errCode]
  split
  · exact h.1
  · exact e.code_le

/-- What an accepted command latches is legal (R34). -/
theorem issued_pendingLegal {i : Instr} {s : State} (hr : isHash i = true → bufferOutOfRange s = false) :
    PendingLegal (issued i s) := by
  refine fun _ => ⟨highHalf_execResult s, ?_, fun hd => by cases hd⟩
  change rangeInside s.kmem.size (if isHash i then bufferRange s else none) = true
  split
  · exact rangeInside_bufferRange (hr ‹_›)
  · rfl

/-- A dirty pending command has a range: only a write inside one dirties it (R35). -/
theorem kmemWrite_pendingLegal {s : State} (a : Nat) (b : Byte) (h : PendingLegal s) :
    PendingLegal (noteDirty a { s with kmem := s.kmem.write a b }) := by
  intro hb
  obtain ⟨hres, hrange, hdirty⟩ := h hb
  refine ⟨hres, hrange, fun hd hnone => ?_⟩
  rcases Bool.or_eq_true_iff.1 hd with hd | hd
  · exact hdirty hd hnone
  · obtain ⟨_, _, hsome, -⟩ := (inRange_iff s.pendRange a).1 (Bool.and_eq_true_iff.1 hd).2
    exact Option.some_ne_none _ (hsome.symm.trans hnone)

/-- Every host action keeps the invariant. -/
theorem HostEffect.inv {act : HostAction} {s t : State} (h : HostEffect s act t) (hi : s.Inv) : t.Inv := by
  obtain ⟨hwf, hstatus, hpend⟩ := hi
  cases h with
  | raised _ e => exact ⟨hwf, raiseError_statusLegal e hstatus, hpend⟩
  | issued _ _ _ _ _ hr => exact ⟨hwf, hstatus, issued_pendingLegal hr⟩
  | cleared => exact ⟨hwf, ⟨by simp, fun _ => rfl⟩, hpend⟩
  | kmemWrite a b ha => exact ⟨s.kmem.write_wf a b hwf ha, hstatus, kmemWrite_pendingLegal a b hpend⟩
  | _ => exact ⟨hwf, hstatus, hpend⟩

/-- Nothing pending is legal. -/
theorem pendingLegal_of_idle {s : State} (h : s.busy = false) : PendingLegal s :=
  fun hb => absurd (h.symm.trans hb) Bool.false_ne_true

/-- The engine's move ends the pending command and touches neither STATUS's error nor KMEM. -/
theorem engineStep_inv {s : State} (hi : s.Inv) : (engineStep s).Inv := by
  refine ⟨?_, ?_, pendingLegal_of_idle (engineStep_busy s)⟩
  · rw [engineStep_kmem]
    exact hi.1
  · rw [StatusLegal, engineStep_errCode, engineStep_err]
    exact hi.2.1

theorem resetBlock_inv {s : State} (hi : s.Inv) : (resetBlock s).Inv :=
  ⟨hi.1, ⟨Nat.zero_le _, fun _ => rfl⟩, pendingLegal_of_idle rfl⟩

theorem powerOnBlock_inv {s : State} (hi : s.Inv) : (powerOnBlock s).Inv :=
  ⟨Memory.wf_of_empty _ _ hi.1.1 hi.1.2.1, ⟨Nat.zero_le _, fun _ => rfl⟩, pendingLegal_of_idle rfl⟩

end Sys2Proof.Machine

open Sys2Proof Sys2Proof.Machine

/-- Settles O56: the invariant is kept by each of the agents' moves, and using up a turn or a host action does not touch
what it speaks of. -/
theorem stepKeepsInvariant : Obligations.StepKeepsInvariant := by
  intro s t hi h
  have hturn : (takeTurn s).Inv := hi
  cases step_outcome h with
  | engine => exact engineStep_inv hturn
  | reset => exact resetBlock_inv hturn
  | powerOn => exact powerOnBlock_inv hturn
  | hostOver => exact hturn
  | host _ rest _ _ _ ho =>
    have hprog : State.Inv { takeTurn s with program := rest } := hi
    exact ho.effect.inv hprog

end

/-! ### Proofs: what a step may change of PEND_DIRTY, KMEM, ACC, BUSY and the operands -/

section

open Sys2Proof Sys2Proof.Machine

/-- Settles O46. -/
theorem onlyRangeWritesDirty : Obligations.OnlyRangeWritesDirty := by
  constructor
  · intro s a b base length hb hr hle hlt hsize
    refine ⟨noteDirty a { s with kmem := s.kmem.write a b }, by simp [hostAction, hostKmemWrite, hsize], ?_⟩
    have hin : inRange s.pendRange a = true := (inRange_iff _ _).2 ⟨base, length, hr, hle, hlt⟩
    simp [hb, hin]
  · intro s t hs h ht
    cases step_outcome h with
    | engine => simp [hs] at ht
    | reset => cases ht
    | powerOn => cases ht
    | hostOver => exact absurd (hs.symm.trans ht) Bool.false_ne_true
    | host act rest _ hn hp ho =>
      obtain ⟨a, b, rfl, hb, hin⟩ := ho.effect.dirty_rises hs ht
      obtain ⟨base, length, hr, hle, hlt⟩ := (inRange_iff _ _).1 hin
      exact ⟨a, b, base, length, hostTurnAction_of_program hn hp, hb, hr, hle, hlt⟩

/-- Settles O48: of all moves only the host's KMEM write and power-on touch the memory, and the write changes its own byte
alone. -/
theorem onlyHostWritesKmem : Obligations.OnlyHostWritesKmem := by
  intro s t hwf h
  have same : t.kmem = s.kmem → t.kmem.size = s.kmem.size ∧ ∀ a, t.kmem.read a = s.kmem.read a ∨
      nextAgent s = .powerOn ∨ ∃ b, hostTurnAction s = some (.kmemWrite a b) ∧ t.kmem.read a = b :=
    fun hk => hk ▸ ⟨rfl, fun _ => .inl rfl⟩
  cases step_outcome h with
  | engine => exact same (engineStep_kmem _)
  | reset => exact same rfl
  | powerOn hn => exact ⟨rfl, fun _ => .inr (.inl hn)⟩
  | hostOver => exact same rfl
  | host act rest _ hn hp ho =>
    rcases ho.effect.kmem_eq_or_write with hk | ⟨a, b, rfl, -, hk⟩
    · exact same hk
    · have hk' : t.kmem = s.kmem.write a b := hk
      rw [hk']
      refine ⟨rfl, fun a' => ?_⟩
      rw [Memory.read_write _ a a' b hwf]
      split
      · subst a'
        exact .inr (.inr ⟨b, hostTurnAction_of_program hn hp, rfl⟩)
      · exact .inl rfl

/-- Settles O57. -/
theorem onlyCompletionWritesAcc : Obligations.OnlyCompletionWritesAcc := by
  intro s t h
  cases step_outcome h with
  | engine hn =>
    cases hb : s.busy with
    | true => exact .inr (.inl ⟨hn, rfl⟩)
    | false =>
      rw [engineStep_idle (s := takeTurn s) hb]
      exact .inl rfl
  | reset hn => exact .inr (.inr (.inl hn))
  | powerOn hn => exact .inr (.inr (.inr hn))
  | hostOver => exact .inl rfl
  | host _ _ _ _ _ ho => exact .inl ho.effect.acc_eq

/-- Settles O58. -/
theorem busyRisesAndFalls : Obligations.BusyRisesAndFalls := by
  intro s t h
  cases step_outcome h with
  | engine hn => exact ⟨fun _ ht => by simp at ht, fun _ _ => .inl hn⟩
  | reset hn => exact ⟨fun _ ht => (by cases ht), fun _ _ => .inr (.inl hn)⟩
  | powerOn hn => exact ⟨fun _ ht => (by cases ht), fun _ _ => .inr (.inr hn)⟩
  | hostOver =>
    exact ⟨fun hb ht => absurd (hb.symm.trans ht) Bool.false_ne_true,
      fun hb ht => absurd (ht.symm.trans hb) Bool.false_ne_true⟩
  | host act rest _ hn hp ho =>
    constructor
    · intro hb ht
      obtain ⟨v, i, rfl, hd, hw⟩ := ho.effect.busy_rises hb ht
      exact ⟨v, i, hostTurnAction_of_program hn hp, hd, hw⟩
    · intro hb ht
      exact absurd (ht.symm.trans (ho.effect.busy_stays hb)) Bool.false_ne_true

/-- Settles O59. -/
theorem onlyHostWritesOperands : Obligations.OnlyHostWritesOperands := by
  intro s t h hreset hpower
  cases step_outcome h with
  | engine => simp
  | reset hn => exact absurd hn hreset
  | powerOn hn => exact absurd hn hpower
  | hostOver => exact ⟨.inl rfl, .inl rfl, .inl rfl, .inl rfl⟩
  | host act rest _ hn hp ho =>
    rw [hostTurnAction_of_program hn hp]
    simp only [Option.some.injEq]
    exact ⟨ho.effect.seed_eq_or_write, ho.effect.len_eq_or_write, ho.effect.addr_eq_or_write,
      ho.effect.data_eq_or_write⟩

end

/-! ### Proofs: where a step stops -/

section
namespace Sys2Proof.Machine

/-- The host's action of this turn, if it is the host's turn and it has one, lies inside the interface. -/
def TurnAdmitted (s : State) : Prop := ∀ a, hostTurnAction s = some a → admitted s.kmem.size a = true

theorem turnAdmitted_of_none {s : State} (h : hostTurnAction s = none) : TurnAdmitted s := by
  intro a ha
  rw [h] at ha
  cases ha

/-- A step answers a next state or is refused, by whether the host's action of this turn is admitted. -/
theorem step_next_or_refused (s : State) :
    (TurnAdmitted s ∧ ∃ t, step s = .next t) ∨ (¬ TurnAdmitted s ∧ ∃ r, step s = .refused r) := by
  have idle : ∀ t, hostTurnAction s = none → step s = .next t → TurnAdmitted s ∧ ∃ t, step s = .next t :=
    fun t hnone ht => ⟨turnAdmitted_of_none hnone, t, ht⟩
  cases hn : nextAgent s with
  | engine => exact .inl (idle (engineStep (takeTurn s)) (by simp [hostTurnAction, hn]) (by rw [step, hn]; rfl))
  | reset => exact .inl (idle (resetBlock (takeTurn s)) (by simp [hostTurnAction, hn]) (by rw [step, hn]; rfl))
  | powerOn => exact .inl (idle (powerOnBlock (takeTurn s)) (by simp [hostTurnAction, hn]) (by rw [step, hn]; rfl))
  | host =>
    cases hp : s.program with
    | nil =>
      exact .inl (idle (takeTurn s) (by simp [hostTurnAction, hp])
        (by rw [step, hn, agentMove, hostStep, takeTurn_program, hp]))
    | cons a rest =>
      have hact : hostTurnAction s = some a := hostTurnAction_of_program hn hp
      rw [step_host hn hp]
      rcases hostAction_outcome a { s with schedule := s.schedule.tail, program := rest } with
        ⟨hadm, t, ht, -⟩ | ⟨hadm, r, hr⟩
      · refine .inl ⟨fun a' ha' => ?_, t, ht⟩
        cases hact.symm.trans ha'
        exact hadm
      · refine .inr ⟨fun hall => ?_, r, hr⟩
        exact Bool.false_ne_true (hadm.symm.trans (hall a hact))

theorem not_turnAdmitted_iff (s : State) :
    ¬ TurnAdmitted s ↔ ∃ a, hostTurnAction s = some a ∧ admitted s.kmem.size a = false := by
  simp [TurnAdmitted]

end Sys2Proof.Machine

open Sys2Proof Sys2Proof.Machine

/-- Settles O50: `step_next_or_refused` says which of the two outcomes comes, and no step has both. -/
theorem onlyInterfaceViolationsStop : Obligations.OnlyInterfaceViolationsStop := by
  intro s
  rw [← not_turnAdmitted_iff]
  change _ ∧ ((∃ t, step s = .next t) ↔ TurnAdmitted s)
  rcases step_next_or_refused s with ⟨hadm, t, ht⟩ | ⟨hadm, r, hr⟩
  · simp [ht, hadm]
  · simp [hr, hadm]

/-- Settles O49. -/
theorem outsideInterfaceIsRefused : Obligations.OutsideInterfaceIsRefused := by
  intro s offset v w
  refine ⟨rfl, fun hlt hmis => ?_, fun hge => ?_⟩
  · have hat : csrAt offset = .error .csrMisaligned := by rw [csrAt, if_neg (by omega), if_pos hmis]
    simp [hostAction, hat]
  · have hat : csrAt offset = .error .outsideWindow := by rw [csrAt, if_pos hge]
    simp [hostAction, hat]

end

/-! ### Proofs: the fetched word, Exec of M32 and the STATUS word -/

section
namespace Sys2Proof.Machine

/-- While BUSY = 1 every command raises OVERRUN and does nothing else (R90). -/
theorem exec_busy (i : Instr) {s : State} (h : s.busy = true) : exec i s = .next (raiseError .overrun s) := by
  obtain ⟨t, ht, ho⟩ := exec_outcome i s
  cases ho with
  | overrun => exact ht
  | illegal hb | range hb | accepted hb => exact absurd (hb.symm.trans h) Bool.false_ne_true

/-- A CMD write of a decodable word is `exec` of its command, BUSY or not. -/
theorem writeCmd_of_decode {v : Word} {i : Instr} (s : State) (h : decode v = .ok i) : writeCmd v s = exec i s := by
  unfold writeCmd
  split
  · exact (exec_busy i ‹_›).symm
  · rw [h]

/-- Of ACC an M32 command reads the low half alone (R27). -/
theorem execResult_acc_congr {i : Instr} (s : State) {x : DWord} (h : instrWidth i = .m32)
    (hx : lowHalf x = lowHalf s.acc) : execResult i { s with acc := x } = execResult i s := by
  have hacc : acc32 { s with acc := x } = acc32 s := hx
  cases i with
  | init32 | hash32 => rfl
  | word32 => exact congrArg (fun h => zext64 (fold32 h (data32 s))) hacc
  | tail32 n => exact congrArg (fun h => zext64 (tail32 h (data32 s) n)) hacc
  | final32 => exact congrArg (fun h => zext64 (fmix32 h)) hacc
  | nop | init64 | word64 | tail64 | final64 | hash64 => cases h

theorem getLsbD_flagWord (b : Bool) (k : Nat) : (flagWord b).getLsbD k = (decide (k = 0) && b) := by
  cases b <;> simp [flagWord]

/-- The bits of STATUS (R28): BUSY, ERR, two zeros, ERRCODE, zeros. -/
theorem getLsbD_statusWord (s : State) {k : Nat} (hk : k < 32) : (statusWord s).getLsbD k =
    if k = 0 then s.busy else if k = 1 then s.err else decide (4 ≤ k) && s.errCode.getLsbD (k - 4) := by
  simp only [statusWord, BitVec.getLsbD_or, BitVec.getLsbD_shiftLeft, getLsbD_flagWord, BitVec.getLsbD_setWidth,
    decide_eq_true hk, decide_eq_true (show k - 4 < 32 by omega), Bool.true_and]
  rcases Nat.lt_or_ge k 4 with h | h
  · interval_cases k <;> simp
  · simp [show k ≠ 0 by omega, show k ≠ 1 by omega, show k - 1 ≠ 0 by omega, h]

/-- The reserved bits of STATUS read 0. -/
theorem getLsbD_statusWord_reserved (s : State) {k : Nat} (hk : k < 32) (h : k = 2 ∨ k = 3 ∨ 8 ≤ k) :
    (statusWord s).getLsbD k = false := by
  rw [getLsbD_statusWord s hk, if_neg (by omega), if_neg (by omega)]
  rcases Nat.lt_or_ge k 8 with hlt | hge
  · rw [decide_eq_false (by omega), Bool.false_and]
  · rw [BitVec.getLsbD_of_ge _ _ (by omega), Bool.and_false]

end Sys2Proof.Machine

open Sys2Proof Sys2Proof.Machine

/-- Settles O8: the placed CMD write is the host's next action at its turn, and using both up gives the state back. -/
theorem stepRunsFetchedWord : Obligations.StepRunsFetchedWord := by
  intro s nbits w i hw
  have hd : decode (tableWord nbits w) = .ok i := by
    unfold decodeTableWord at hw
    split at hw
    · cases hdec : decode (tableWord nbits w) with
      | ok j =>
        rw [hdec] at hw
        cases hw
        rfl
      | error e =>
        rw [hdec] at hw
        cases hw
    · cases hw
  calc step (s.withFetchWord nbits w)
      = hostAction (.csrWrite 0x00 (tableWord nbits w)) s := step_host (s := s.withFetchWord nbits w) rfl rfl
    _ = writeCmd (tableWord nbits w) s := rfl
    _ = exec i s := writeCmd_of_decode s hd

/-- Settles O15. -/
theorem m32UsesLowHalfOfAcc : Obligations.M32UsesLowHalfOfAcc := by
  intro i s x hi
  have hwidth : instrWidth i = .m32 := by
    rcases hi with hi | ⟨n, rfl⟩
    · fin_cases hi <;> rfl
    · rfl
  exact ⟨execResult_acc_congr s hwidth (lowHalf_joinHalves x (lowHalf s.acc)), highHalf_execResult s hwidth⟩

/-- Settles O41. -/
theorem statusBits : Obligations.StatusBits := by
  intro s
  refine ⟨getLsbD_statusWord s (by decide), getLsbD_statusWord s (by decide), ?_, ?_, ?_⟩
  · apply BitVec.eq_of_getLsbD_eq
    intro k hk
    rw [BitVec.getLsbD_extractLsb', decide_eq_true hk, Bool.true_and, getLsbD_statusWord s (by omega),
      if_neg (by omega), if_neg (by omega)]
    simp
  · apply BitVec.eq_of_getLsbD_eq
    intro k hk
    rw [BitVec.getLsbD_extractLsb', getLsbD_statusWord_reserved s (by omega) (by omega)]
    simp
  · apply BitVec.eq_of_getLsbD_eq
    intro k hk
    rw [BitVec.getLsbD_extractLsb', getLsbD_statusWord_reserved s (by omega) (by omega)]
    simp

end

/-! ### Proofs: MemRead bit by bit -/

section
namespace Sys2Proof.Machine

/-- A byte put at place `n` reaches the bits 8n to 8n + 7 alone. -/
theorem getLsbD_byteAt (b : Byte) {n k : Nat} (hn : n < 8) : ((b.setWidth 64 : DWord) <<< (8 * n)).getLsbD k =
    (decide (8 * n ≤ k) && b.getLsbD (k - 8 * n)) := by
  rw [BitVec.getLsbD_shiftLeft, BitVec.getLsbD_setWidth]
  rcases Nat.lt_or_ge k (8 * n + 8) with hk | hk
  · simp [show k < 64 by omega, show k - 8 * n < 64 by omega, ← decide_not]
  · simp [BitVec.getLsbD_of_ge b (k - 8 * n) (by omega)]

/-- Bit `k` of MemRead is bit `k % 8` of the byte at `a + k / 8` (R53). The bytes' places are disjoint, so the sum
carries nothing and is the `or` of them. -/
theorem getLsbD_memRead (m : Memory) (a : Nat) {n : Nat} (hn : n ≤ 8) (k : Nat) :
    (memRead m a n).getLsbD k = (decide (k < 8 * n) && (m.read (a + k / 8)).getLsbD (k % 8)) := by
  induction n generalizing k with
  | zero => simp
  | succ n ih =>
    specialize ih (by omega)
    have hdisj : memRead m a n &&& (m.read (a + n)).setWidth 64 <<< (8 * n) = 0 := by
      refine BitVec.eq_of_getLsbD_eq fun i _ => ?_
      rw [BitVec.getLsbD_and, ih, getLsbD_byteAt _ (by omega)]
      rcases Nat.lt_or_ge i (8 * n) with hi | hi
      · simp [Nat.not_le.2 hi]
      · simp [Nat.not_lt.2 hi]
    rw [memRead_succ, BitVec.add_eq_or_of_and_eq_zero _ _ hdisj, BitVec.getLsbD_or, ih, getLsbD_byteAt _ (by omega)]
    rcases Nat.lt_or_ge k (8 * n) with hk | hk
    · simp [hk, Nat.not_le.2 hk, show k < 8 * (n + 1) by omega]
    · rcases Nat.lt_or_ge k (8 * (n + 1)) with hk' | hk'
      · have hdiv : k / 8 = n := by omega
        have hmod : k % 8 = k - 8 * n := by omega
        simp [hk, hk', Nat.not_lt.2 hk, hdiv, hmod]
      · have hout : (m.read (a + n)).getLsbD (k - 8 * n) = false := BitVec.getLsbD_of_ge _ _ (by omega)
        simp [Nat.not_lt.2 hk, Nat.not_lt.2 hk', hout]

/-- Byte `j` of MemRead is the byte at `a + j`, and 0 above the bytes read. -/
theorem extractByte_memRead (m : Memory) (a : Nat) {n : Nat} (hn : n ≤ 8) (j : Nat) :
    (memRead m a n).extractLsb' (8 * j) 8 = if j < n then m.read (a + j) else 0 := by
  refine BitVec.eq_of_getLsbD_eq fun k hk => ?_
  have hdiv : (8 * j + k) / 8 = j := by omega
  have hmod : (8 * j + k) % 8 = k := by omega
  rw [BitVec.getLsbD_extractLsb', getLsbD_memRead m a hn, hdiv, hmod]
  split
  · simp [hk, show 8 * j + k < 8 * n by omega]
  · simp [show ¬ 8 * j + k < 8 * n by omega]

theorem memRead_toNat_lt (m : Memory) (a : Nat) {n : Nat} (hn : n ≤ 8) : (memRead m a n).toNat < 2 ^ (8 * n) := by
  refine Nat.lt_pow_two_of_testBit _ fun k hk => ?_
  rw [BitVec.testBit_toNat, getLsbD_memRead m a hn, decide_eq_false (Nat.not_lt.2 hk), Bool.false_and]

/-- MemRead as a sum taken over the places of its bytes (R53). -/
theorem memRead_eq_foldl (m : Memory) (a n : Nat) :
    memRead m a n = (List.range n).foldl (fun x j => x + (m.read (a + j)).setWidth 64 <<< (8 * j)) 0 := by
  induction n with
  | zero => rfl
  | succ n ih => rw [List.range_succ, List.foldl_concat, ← ih, memRead_succ]

/-- The four bytes of a longer MemRead from byte `j` on are the 32-bit word at `a + j`. -/
theorem extractWord_memRead (m : Memory) (a : Nat) {n j : Nat} (hn : n ≤ 8) (hj : j + 4 ≤ n) :
    (memRead m a n).extractLsb' (8 * j) 32 = (memRead m (a + j) 4).extractLsb' 0 32 := by
  refine BitVec.eq_of_getLsbD_eq fun k hk => ?_
  have hdiv : (8 * j + k) / 8 = j + k / 8 := by omega
  have hmod : (8 * j + k) % 8 = k % 8 := by omega
  rw [BitVec.getLsbD_extractLsb', BitVec.getLsbD_extractLsb', getLsbD_memRead m a hn,
    getLsbD_memRead m (a + j) (by omega), Nat.zero_add, hdiv, hmod, Nat.add_assoc,
    decide_eq_true (show 8 * j + k < 8 * n by omega), decide_eq_true (show k < 8 * 4 by omega)]

end Sys2Proof.Machine
end

/-! ### Proofs: the CMD write of a step, the host's KMEM port and MemRead -/

section

open Sys2Proof Sys2Proof.Machine

/-- Settles O7. -/
theorem stepRunsDecodedCommand : Obligations.StepRunsDecodedCommand := by
  intro s v rest i hn hp hd
  calc step s
      = hostAction (.csrWrite 0x00 v) { s with schedule := s.schedule.tail, program := rest } := step_host hn hp
    _ = writeCmd v { s with schedule := s.schedule.tail, program := rest } := rfl
    _ = exec i { s with schedule := s.schedule.tail, program := rest } := writeCmd_of_decode _ hd

/-- Settles O45: a write is one byte of the memory and `noteDirty`, whose condition is `inRange_iff`. -/
theorem hostKmemAccess : Obligations.HostKmemAccess := by
  intro s a hwf
  refine ⟨fun b ha => ?_, fun ha => ?_, fun b ha => ?_⟩
  · refine ⟨noteDirty a { s with kmem := s.kmem.write a b }, by simp only [hostAction, hostKmemWrite, if_pos ha],
      fun a' => Memory.read_write s.kmem a a' b hwf, rfl, ?_⟩
    simp only [noteDirty_pendDirty, Bool.or_eq_true, Bool.and_eq_true, inRange_iff]
  · simp only [hostAction, hostKmemRead, if_pos ha, noteRead]
  · simp only [hostAction, hostKmemWrite, hostKmemRead, if_neg (Nat.not_lt.2 ha), and_self]

/-- Settles O47: everything but the sum itself is read off the bits of MemRead (`getLsbD_memRead`). -/
theorem memReadLittleEndian : Obligations.MemReadLittleEndian := by
  constructor
  · intro m a
    exact ⟨extractWord_memRead m a (j := 0) (by decide) (by decide),
      extractWord_memRead m a (j := 4) (by decide) (by decide)⟩
  · intro m a n hn
    exact ⟨memRead_eq_foldl m a n, fun j _ => extractByte_memRead m a hn j, memRead_toNat_lt m a hn,
      memRead_zero m a⟩

end

/-! ### Proofs: the decode table by its rows and its fields -/

section
namespace Sys2Proof

/-- A word is its fields Z, N and OP put side by side (R71). -/
theorem word_eq_append_fields (v : Word) : v = fieldZ v ++ (fieldN v ++ fieldOp v) := by
  unfold fieldZ fieldN fieldOp
  rw [BitVec.extractLsb'_append_extractLsb'_eq_extractLsb' (by rfl),
    BitVec.extractLsb'_append_extractLsb'_eq_extractLsb' (by rfl), BitVec.extractLsb'_eq_self]

/-- Two words with the same three fields are the same word. -/
theorem word_eq_of_fields {v w : Word} (hZ : fieldZ v = fieldZ w) (hN : fieldN v = fieldN w)
    (hOp : fieldOp v = fieldOp w) : v = w := by
  rw [word_eq_append_fields v, hZ, hN, hOp, ← word_eq_append_fields w]

/-- Masking a word masks each of its fields. -/
theorem and_eq_iff_fields (v m p : Word) : v &&& m = p ↔
    fieldZ v &&& fieldZ m = fieldZ p ∧ fieldN v &&& fieldN m = fieldN p ∧ fieldOp v &&& fieldOp m = fieldOp p := by
  have hand : ∀ start len, (v &&& m).extractLsb' start len = v.extractLsb' start len &&& m.extractLsb' start len :=
    fun _ _ => BitVec.extractLsb'_and
  constructor
  · rintro rfl
    exact ⟨(hand 8 24).symm, (hand 4 4).symm, (hand 0 4).symm⟩
  · rintro ⟨hZ, hN, hOp⟩
    exact word_eq_of_fields ((hand 8 24).trans hZ) ((hand 4 4).trans hN) ((hand 0 4).trans hOp)

/-- Every row fixes Z at 0 and OP at its own digit; only N is masked further. -/
theorem opcodeRows_fix_fields : ∀ r ∈ opcodeRows,
    fieldZ r.mask = BitVec.allOnes 24 ∧ fieldZ r.pattern = 0 ∧ fieldOp r.mask = BitVec.allOnes 4 := by decide

/-- A row matches a word by Z = 0, its masked count and its digit. -/
theorem row_match_iff_fields {r : OpcodeRow} (hr : r ∈ opcodeRows) (v : Word) : v &&& r.mask = r.pattern ↔
    fieldZ v = 0 ∧ fieldN v &&& fieldN r.mask = fieldN r.pattern ∧ fieldOp v = fieldOp r.pattern := by
  obtain ⟨hZ, hZ0, hOp⟩ := opcodeRows_fix_fields r hr
  rw [and_eq_iff_fields, hZ, hZ0, hOp, BitVec.and_allOnes, BitVec.and_allOnes]

@[simp] theorem OpcodeRow.matchesWord_iff (r : OpcodeRow) (v : Word) :
    r.matchesWord v = true ↔ v &&& r.mask = r.pattern := beq_iff_eq

/-- R75: two rows that match one word are the same row. -/
theorem row_unique {r q : OpcodeRow} (hr : r ∈ opcodeRows) (hq : q ∈ opcodeRows) {v : Word}
    (hvr : v &&& r.mask = r.pattern) (hvq : v &&& q.mask = q.pattern) : r = q := by
  have hsymm : Std.Symm fun p q : OpcodeRow => p.pattern &&& q.mask ≠ q.pattern &&& p.mask :=
    ⟨fun _ _ h => h.symm⟩
  by_contra hne
  refine opcodeRows_disjoint.forall hr hq hne ?_
  rw [← hvr, ← hvq, BitVec.and_assoc, BitVec.and_assoc, BitVec.and_comm r.mask]

/-- Two rows that build the same command are the same row. -/
theorem row_eq_of_build {r q : OpcodeRow} (hr : r ∈ opcodeRows) (hq : q ∈ opcodeRows) {n : Nat}
    (h : r.build n = q.build n) : r = q := by
  have hnodup : (opcodeRows.map (·.build n)).Nodup := by simp [opcodeRows]
  exact List.inj_on_of_nodup_map hnodup hr hq h

/-- The decoder's search finds a row exactly when it matches: being the first one is no condition. -/
theorem find_row_eq_some_iff (v : Word) (r : OpcodeRow) : opcodeRows.find? (fun r => r.matchesWord v) = some r ↔
    r ∈ opcodeRows ∧ v &&& r.mask = r.pattern := by
  constructor
  · exact fun h => ⟨List.mem_of_find?_eq_some h, by simpa using List.find?_some h⟩
  · rintro ⟨hr, hmatch⟩
    cases hfind : opcodeRows.find? (fun r => r.matchesWord v) with
    | none => exact absurd ((r.matchesWord_iff v).2 hmatch) (List.find?_eq_none.1 hfind r hr)
    | some q =>
      have hq : v &&& q.mask = q.pattern := by simpa using List.find?_some hfind
      rw [row_unique (List.mem_of_find?_eq_some hfind) hr hq hmatch]

/-- R75: a word decodes to the command of the row it matches. -/
theorem decode_ok_iff_row (v : Word) (i : Instr) : decode v = .ok i ↔
    ∃ r ∈ opcodeRows, v &&& r.mask = r.pattern ∧ r.build (fieldN v).toNat = i := by
  simp only [decode_ok_iff, find_row_eq_some_iff, and_assoc]

/-- R75: a row matches exactly the words that decode to its command. -/
theorem row_match_iff_decode (v : Word) {r : OpcodeRow} (hr : r ∈ opcodeRows) :
    v &&& r.mask = r.pattern ↔ decode v = .ok (r.build (fieldN v).toNat) := by
  rw [decode_ok_iff_row]
  constructor
  · exact fun h => ⟨r, hr, h, rfl⟩
  · rintro ⟨q, hq, hmatch, hbuild⟩
    rwa [← row_eq_of_build hq hr hbuild]

/-- R75: a word is ILLEGAL when no row matches it. -/
theorem decode_error_iff (v : Word) :
    (∃ e, decode v = .error e) ↔ ∀ r ∈ opcodeRows, v &&& r.mask ≠ r.pattern := by
  have hnone : (∃ e, decode v = .error e) ↔ opcodeRows.find? (fun r => r.matchesWord v) = none := by
    unfold decode
    cases opcodeRows.find? (fun r => r.matchesWord v) <;> simp
  simp [hnone]

/-- A word decodes to no command when no row matches it. -/
theorem decode_ne_ok_iff (v : Word) :
    (∀ i, decode v ≠ .ok i) ↔ ∀ r ∈ opcodeRows, v &&& r.mask ≠ r.pattern := by
  rw [← decode_error_iff]
  cases decode v <;> simp

/-- No row matches a word when Z is not 0, or when every row turns N and OP away. -/
theorem no_row_matches_iff_fields (v : Word) : (∀ r ∈ opcodeRows, v &&& r.mask ≠ r.pattern) ↔
    fieldZ v ≠ 0 ∨
      ∀ r ∈ opcodeRows, ¬(fieldN v &&& fieldN r.mask = fieldN r.pattern ∧ fieldOp v = fieldOp r.pattern) := by
  constructor
  · intro h
    by_cases hZ : fieldZ v = 0
    · exact .inr fun r hr hrow => h r hr ((row_match_iff_fields hr v).2 ⟨hZ, hrow⟩)
    · exact .inl hZ
  · intro h r hr hmatch
    obtain ⟨hZ, hrow⟩ := (row_match_iff_fields hr v).1 hmatch
    exact h.elim (fun hne => hne hZ) fun hno => hno r hr hrow

/-- The command a row builds from a count it admits is well-formed, and its word has that count in N and the row's digit
in OP. -/
theorem opcodeRows_encode : ∀ r ∈ opcodeRows, ∀ n : BitVec 4, n &&& fieldN r.mask = fieldN r.pattern →
    (r.build n.toNat).wellFormed = true ∧ fieldZ (encode (r.build n.toNat)) = 0 ∧
      fieldN (encode (r.build n.toNat)) = n ∧ fieldOp (encode (r.build n.toNat)) = fieldOp r.pattern := by
  decide

/-- R77 on the fields N and OP alone: where Z = 0, these are the cases in which no row of the table matches. -/
theorem opcodeRows_refuse_iff : ∀ n op : BitVec 4,
    (∀ r ∈ opcodeRows, ¬(n &&& fieldN r.mask = fieldN r.pattern ∧ op = fieldOp r.pattern)) ↔
      (op ∈ ([0x6, 0x7, 0x8, 0xE, 0xF] : List (BitVec 4)) ∨ (n ≠ 0 ∧ op ≠ 0x3 ∧ op ≠ 0xB) ∨
        (op = 0x3 ∧ 4 ≤ n.toNat) ∨ (op = 0xB ∧ 8 ≤ n.toNat)) := by
  decide

theorem tail32_wellFormed_iff (n : Nat) : (Instr.tail32 n).wellFormed = true ↔ n ∈ List.range 4 := by
  simp [Instr.wellFormed, Nat.lt_succ_iff]

theorem tail64_wellFormed_iff (n : Nat) : (Instr.tail64 n).wellFormed = true ↔ n ∈ List.range 8 := by
  simp [Instr.wellFormed, Nat.lt_succ_iff]

/-- The well-formed commands, in the order of their digits and counts (`wellFormed_iff_mem`). -/
def wellFormedCommands : List Instr :=
  [Instr.nop, Instr.init32, Instr.word32] ++ (List.range 4).map Instr.tail32 ++
    [Instr.final32, Instr.hash32, Instr.init64, Instr.word64] ++ (List.range 8).map Instr.tail64 ++
    [Instr.final64, Instr.hash64]

theorem wellFormed_iff_mem (i : Instr) : i.wellFormed = true ↔ i ∈ wellFormedCommands := by
  cases i with
  | tail32 n => simp [tail32_wellFormed_iff, wellFormedCommands]
  | tail64 n => simp [tail64_wellFormed_iff, wellFormedCommands]
  | nop | init32 | word32 | final32 | hash32 | init64 | word64 | final64 | hash64 => decide

end Sys2Proof
end

/-! ### Proofs: encoding (30_encoding.md) -/

section

open Sys2Proof Sys2Proof.Machine

/-- Settles O1. -/
theorem decodeOfEncode : Obligations.DecodeOfEncode := by
  intro i hwf
  cases i with
  | tail32 n =>
    have hn : n ≤ 3 := by simpa [Instr.wellFormed] using hwf
    interval_cases n <;> rfl
  | tail64 n =>
    have hn : n ≤ 7 := by simpa [Instr.wellFormed] using hwf
    interval_cases n <;> rfl
  | nop | init32 | word32 | final32 | hash32 | init64 | word64 | final64 | hash64 => rfl

/-- Settles O2: the word and the word of the command its row builds have the same three fields. -/
theorem encodeOfDecode : Obligations.EncodeOfDecode := by
  intro v i hd
  obtain ⟨r, hr, hmatch, rfl⟩ := (decode_ok_iff_row v i).1 hd
  obtain ⟨hZ, hN, hOp⟩ := (row_match_iff_fields hr v).1 hmatch
  obtain ⟨hwf, hZ', hN', hOp'⟩ := opcodeRows_encode r hr (fieldN v) hN
  exact ⟨hwf, word_eq_of_fields (hZ'.trans hZ.symm) hN' (hOp'.trans hOp.symm)⟩

/-- The two halves of the round trip as one: a command decodes from its own word and from no other. -/
theorem decode_ok_iff_encode (v : Word) (i : Instr) : decode v = .ok i ↔ i.wellFormed = true ∧ encode i = v := by
  constructor
  · exact encodeOfDecode v i
  · rintro ⟨hwf, rfl⟩
    exact decodeOfEncode i hwf

/-- Settles O3: the legal words are the words of the 21 well-formed commands (`decode_ok_iff_encode`). -/
theorem legalCommandWords : Obligations.LegalCommandWords := by
  refine ⟨fun v => ?_, fun v => ?_, fun v => ?_, ?_⟩
  · calc (∃ i, decode v = .ok i)
        ↔ ∃ i ∈ wellFormedCommands, encode i = v := exists_congr fun i => by
          rw [decode_ok_iff_encode, wellFormed_iff_mem]
      _ ↔ v ∈ wellFormedCommands.map encode := List.mem_map.symm
  · calc (∃ n, decode v = .ok (.tail32 n))
        ↔ ∃ n ∈ List.range 4, encode (.tail32 n) = v := exists_congr fun n => by
          rw [decode_ok_iff_encode, tail32_wellFormed_iff]
      _ ↔ v ∈ (List.range 4).map fun n => encode (.tail32 n) := List.mem_map.symm
  · calc (∃ n, decode v = .ok (.tail64 n))
        ↔ ∃ n ∈ List.range 8, encode (.tail64 n) = v := exists_congr fun n => by
          rw [decode_ok_iff_encode, tail64_wellFormed_iff]
      _ ↔ v ∈ (List.range 8).map fun n => encode (.tail64 n) := List.mem_map.symm
  · exact ⟨decodeOfEncode .nop rfl, decodeOfEncode .init32 rfl, decodeOfEncode .word32 rfl,
      decodeOfEncode .final32 rfl, decodeOfEncode .hash32 rfl, decodeOfEncode .init64 rfl,
      decodeOfEncode .word64 rfl, decodeOfEncode .final64 rfl, decodeOfEncode .hash64 rfl⟩

/-- Settles O4: no row matches where Z is not 0, or where N and OP are refused (`opcodeRows_refuse_iff`). -/
theorem illegalCommandWords : Obligations.IllegalCommandWords := by
  intro v
  rw [decode_ne_ok_iff, no_row_matches_iff_fields, opcodeRows_refuse_iff]
  rfl

/-- Settles O5: the eleven rows are `row_match_iff_decode` at each row of the table. -/
theorem decodeTableRows : Obligations.DecodeTableRows := by
  intro v
  have rows : ∀ r ∈ opcodeRows, (v &&& r.mask = r.pattern ↔ decode v = .ok (r.build (fieldN v).toNat)) :=
    fun r hr => row_match_iff_decode v hr
  simp only [opcodeRows, List.forall_mem_cons] at rows
  obtain ⟨nop, init32, word32, tail32, final32, hash32, init64, word64, tail64, final64, hash64, -⟩ := rows
  exact ⟨nop, init32, word32, tail32, final32, hash32, init64, word64, tail64, final64, hash64, decode_error_iff v,
    fun r hr q hq hvr hvq => congrArg OpcodeRow.mnemonic (row_unique hr hq hvr hvq)⟩

/-- Settles O6: each of them is the word of its command. -/
theorem sampleCommandWords : Obligations.SampleCommandWords :=
  ⟨decodeOfEncode .nop rfl, decodeOfEncode .word32 rfl, decodeOfEncode (.tail32 3) rfl, decodeOfEncode .hash32 rfl,
    decodeOfEncode (.tail64 5) rfl, decodeOfEncode .final64 rfl⟩

/-- Settles O55: bit 0 of the STATUS word a turn reads is BUSY. -/
theorem pollRepeatsWhileBusy : Obligations.PollRepeatsWhileBusy := by
  intro s
  have hbit : (statusWord s).getLsbD 0 = s.busy := (statusBits s).1
  simp only [hostAction, pollStatus, hbit]
  by_cases hb : s.busy = true
  · rw [if_pos hb, if_pos hb]
    rfl
  · rw [if_neg hb, if_neg hb]
    rfl

end

/-! ### Proofs: a CMD write case by case, the completion, the register accesses and what a host action draws -/

section
namespace Sys2Proof.Machine

open Sys2Proof.Claims

/-! #### Issue (R90) -/

/-- While BUSY = 1 a CMD write discards its word undecoded. -/
theorem writeCmd_busy (v : Word) {s : State} (h : s.busy = true) : writeCmd v s = .next (raiseError .overrun s) := by
  rw [writeCmd, if_pos h]

/-- An idle block turns an illegal word away. -/
theorem writeCmd_illegal {v : Word} {s : State} (hb : s.busy = false) (hd : ∀ i, decode v ≠ .ok i) :
    writeCmd v s = .next (raiseError .illegalCmd s) := by
  obtain ⟨t, ht, ho⟩ := writeCmd_outcome v s
  cases ho with
  | overrun h => exact absurd (hb.symm.trans h) Bool.false_ne_true
  | illegal => exact ht
  | issued i _ _ h => exact absurd h (hd i)

theorem isHash_iff (i : Instr) : isHash i = true ↔ i = .hash32 ∨ i = .hash64 := by
  cases i <;> simp [isHash]

theorem wellFormed_of_isHash {i : Instr} (h : isHash i = true) : i.wellFormed = true := by
  rcases (isHash_iff i).1 h with rfl | rfl <;> rfl

/-- An idle block turns a HASH command away whose buffer does not lie in KMEM. -/
theorem exec_outOfRange {i : Instr} {s : State} (hb : s.busy = false) (hh : isHash i = true)
    (hr : bufferOutOfRange s = true) : exec i s = .next (raiseError .range s) := by
  obtain ⟨t, ht, ho⟩ := exec_outcome i s
  cases ho with
  | overrun h => exact absurd (hb.symm.trans h) Bool.false_ne_true
  | illegal _ hw => exact absurd (hw.symm.trans (wellFormed_of_isHash hh)) Bool.false_ne_true
  | range => exact ht
  | accepted _ _ h => exact absurd ((h hh).symm.trans hr) Bool.false_ne_true

/-- A command raises an error or is accepted, and it is accepted in an idle state alone. -/
theorem IssueOutcome.raised_or_issued {i : Instr} {s t : State} (h : IssueOutcome i s t) :
    (∃ e, t = raiseError e s) ∨ (s.busy = false ∧ t = Machine.issued i s) := by
  cases h with
  | overrun | illegal | range => exact .inl ⟨_, rfl⟩
  | accepted hb => exact .inr ⟨hb, rfl⟩

/-- The count of a decoded TAIL32 is the field N of its word (R72). -/
theorem count_of_decode_tail32 {v : Word} {n : Nat} (h : decode v = .ok (.tail32 n)) : n = (fieldN v).toNat := by
  obtain ⟨hw, rfl⟩ := encodeOfDecode v _ h
  exact (Laws.Fields.tail32 n hw).2.1.symm

/-- PEND_WIDTH of a decoded command, as R90 lists the M32 commands. -/
theorem instrWidth_of_decode {v : Word} {i : Instr} (h : decode v = .ok i) :
    instrWidth i =
      if i ∈ [.init32, .word32, .tail32 (fieldN v).toNat, .final32, .hash32] then .m32 else .m64 := by
  cases i with
  | tail32 n => rw [← count_of_decode_tail32 h, if_pos (by simp)]; rfl
  | init32 | word32 | final32 | hash32 => rw [if_pos (by simp)]; rfl
  | nop | init64 | word64 | tail64 | final64 | hash64 => rw [if_neg (by simp)]; rfl

/-- PEND_RANGE of a command, in the words of the registers. -/
theorem instrRange_eq (i : Instr) (s : State) : instrRange i s =
    if (i = .hash32 ∨ i = .hash64) ∧ s.len ≠ 0 then some (s.addr.toNat, s.len.toNat) else none := by
  simp only [instrRange, bufferRange_eq, ← isHash_iff]
  by_cases hh : isHash i = true
  · by_cases hl : s.len = 0 <;> simp [hh, hl]
  · simp [hh]

/-! #### Commands without a KMEM operand -/

/-- Such a command latches no range. -/
theorem issued_eq_latched {i : Instr} (s : State) (hh : isHash i = false) :
    issued i s = latched (instrWidth i) none (execResult i s) s := by
  rw [issued, instrRange, hh]
  rfl

/-- Every well-formed command but the two HASH commands is accepted from every idle state and completes with Exec. -/
theorem completes_execResult {i : Instr} (hw : i.wellFormed = true) (hh : isHash i = false) :
    completes i (instrWidth i) (execResult i) := by
  intro s hb
  constructor
  · rw [exec_accepts hw hb (by simp [hh]), issued_eq_latched s hh]
  · exact engineStep_clean rfl rfl

theorem overruns_all (i : Instr) : overruns i := fun _ hb => exec_busy i hb

/-- An accepted command that was waited out has left Exec in ACC. -/
theorem afterCommand_acc {i : Instr} {s : State} (hw : i.wellFormed = true) (hb : s.busy = false)
    (hr : isHash i = true → bufferOutOfRange s = false) : (afterCommand i s).acc = execResult i s := by
  rw [afterCommand_accepted hw hb hr, finish_acc]

/-- STATUS of an idle block without an error. -/
theorem statusWord_eq_zero {s : State} (hb : s.busy = false) (he : s.err = false) (hc : s.errCode = 0) :
    statusWord s = 0 := by
  rw [statusWord, hb, he, hc]
  rfl

/-! #### The completion (R93) -/

section EngineFrames

variable (s : State)

@[simp] theorem engineStep_pendResult : (engineStep s).pendResult = s.pendResult := by
  obtain ⟨_, _, h⟩ := engineStep_eq s; rw [h]
@[simp] theorem engineStep_pendWidth : (engineStep s).pendWidth = s.pendWidth := by
  obtain ⟨_, _, h⟩ := engineStep_eq s; rw [h]
@[simp] theorem engineStep_pendRange : (engineStep s).pendRange = s.pendRange := by
  obtain ⟨_, _, h⟩ := engineStep_eq s; rw [h]
@[simp] theorem engineStep_program : (engineStep s).program = s.program := by
  obtain ⟨_, _, h⟩ := engineStep_eq s; rw [h]
@[simp] theorem engineStep_schedule : (engineStep s).schedule = s.schedule := by
  obtain ⟨_, _, h⟩ := engineStep_eq s; rw [h]
@[simp] theorem engineStep_reads : (engineStep s).reads = s.reads := by
  obtain ⟨_, _, h⟩ := engineStep_eq s; rw [h]

/-- ACC after the engine's move: of the state it reads BUSY, the pending state, ACC and the draw counter alone. -/
theorem engineStep_acc : (engineStep s).acc =
    if s.busy then (if s.pendDirty then (finishDrawn s).acc else s.pendResult) else s.acc := by
  unfold engineStep
  split
  · split <;> rfl
  · rfl

/-- The engine draws for a dirtied command and only then. -/
theorem engineStep_draws : (engineStep s).draws =
    if s.busy then (if s.pendDirty then s.draws + 1 else s.draws) else s.draws := by
  unfold engineStep
  split
  · split <;> rfl
  · rfl

/-- The engine's move neither reads nor writes ERR and ERRCODE. -/
theorem engineStep_setError (err : Bool) (code : BitVec 4) :
    engineStep { s with err := err, errCode := code } = { engineStep s with err := err, errCode := code } := by
  unfold engineStep
  split
  · split <;> rfl
  · rfl

end EngineFrames

/-- The completion of a dirtied M32 command: the draw is zero-extended. -/
theorem finishDrawn_m32 {s : State} (h : s.pendWidth = .m32) : finishDrawn s =
    { s with acc := zext64 (Config.anyValue32 s.draws), busy := false, draws := s.draws + 1 } := by
  simp only [finishDrawn, finish, h]

/-- The completion of a dirtied M64 command. -/
theorem finishDrawn_m64 {s : State} (h : s.pendWidth = .m64) : finishDrawn s =
    { s with acc := Config.anyValue64 s.draws, busy := false, draws := s.draws + 1 } := by
  simp only [finishDrawn, finish, h]

/-! #### Register accesses (R98, R99) and KMEM writes -/

theorem hostAction_csrWrite {offset : Nat} {r : Csr} (v : Word) (s : State) (h : csrAt offset = .ok r) :
    hostAction (.csrWrite offset v) s = writeCsr r v s := by
  rw [hostAction, h]

theorem hostAction_csrRead {offset : Nat} {r : Csr} (s : State) (h : csrAt offset = .ok r) :
    hostAction (.csrRead offset) s = .next (readCsr r s) := by
  rw [hostAction, h]

/-- A read that draws nothing returns the register's value. -/
theorem readsAs_of_value {offset : Nat} {r : Csr} {v : Word} {s : State} (h : csrAt offset = .ok r)
    (hd : readDraws r s = false) (hv : readValue r s = v) : readsAs offset v s := by
  rw [readsAs, hostAction_csrRead s h, readCsr, hd, hv]
  rfl

/-- A read that draws returns the fresh draw (R95). -/
theorem readsFree_of_draw {offset : Nat} {r : Csr} {s : State} (h : csrAt offset = .ok r)
    (hd : readDraws r s = true) (hv : readValue r s = Config.anyValue32 s.draws) : readsFree offset s := by
  rw [readsFree, hostAction_csrRead s h, readCsr, hd, hv]
  rfl

/-- ACC and the reserved offsets ignore a write (R98). -/
theorem csrWrite_ignored {offset : Nat} (v : Word) (s : State) (hge : 0x20 ≤ offset) (hlt : offset < 0x40)
    (h4 : offset % 4 = 0) : hostAction (.csrWrite offset v) s = .next s := by
  obtain ⟨t, ht, ho⟩ := csrWrite_outcome v s hlt h4
  cases ho with
  | ignored => exact ht
  | cmd | status | seedLo | seedHi | len | addr | dataLo | dataHi => omega

/-- A write of an operand register changes operand registers alone. -/
theorem writeCsr_operand {r : Csr} (v : Word) (s : State)
    (hr : r ∈ [Csr.seedLo, .seedHi, .len, .addr, .dataLo, .dataHi]) :
    ∃ seed len addr data, writeCsr r v s = .next { s with seed := seed, len := len, addr := addr, data := data } := by
  cases r with
  | seedLo | seedHi | len | addr | dataLo | dataHi => exact ⟨_, _, _, _, rfl⟩
  | cmd | status | accLo | accHi | reserved => simp at hr

/-- A KMEM write outside the pending range changes KMEM alone (R35). -/
theorem hostKmemWrite_outside {a : Nat} (b : Byte) {s : State} (ha : a < s.kmem.size)
    (h : inRange s.pendRange a = false) : hostKmemWrite a b s = .next { s with kmem := s.kmem.write a b } := by
  rw [hostKmemWrite, if_pos ha, noteDirty, h, Bool.and_false, Bool.or_false]

/-! #### What a host action draws, and the schedule -/

/-- A CMD write makes no draw. -/
theorem CmdOutcome.draws_eq {v : Word} {s t : State} (h : CmdOutcome v s t) : t.draws = s.draws := by
  cases h with
  | overrun | illegal => rfl
  | issued i _ _ _ hx =>
    rcases (exec_next hx).raised_or_issued with ⟨e, rfl⟩ | ⟨-, rfl⟩ <;> rfl

theorem WriteOutcome.draws_eq {offset : Nat} {v : Word} {s t : State} (h : WriteOutcome offset v s t) :
    t.draws = s.draws := by
  cases h with
  | cmd _ _ hc => exact hc.draws_eq
  | status =>
    unfold writeStatus
    split <;> rfl
  | _ => rfl

/-- A register read draws at the two offsets of ACC while BUSY = 1 and nowhere else (R95). -/
theorem readDraws_csrNamed {offset : Nat} {s : State} (h : readDraws (csrNamed offset) s = true) :
    s.busy = true ∧ (offset = 0x20 ∨ offset = 0x24) := by
  unfold csrNamed at h
  split at h
  -- the ninth and tenth registers of the window are ACC_LO and ACC_HI
  case h_9 => exact ⟨h, .inl rfl⟩
  case h_10 => exact ⟨h, .inr rfl⟩
  all_goals cases h

/-- The only host action that draws is a read of ACC while BUSY = 1. -/
theorem HostOutcome.draws_eq_or_accRead {act : HostAction} {s t : State} (h : HostOutcome s act t) :
    t.draws = s.draws ∨ (s.busy = true ∧ (act = .csrRead 0x20 ∨ act = .csrRead 0x24)) := by
  cases h with
  | csrWrite _ _ _ _ _ hw => exact .inl hw.draws_eq
  | csrRead offset =>
    rw [readCsr_draws]
    split
    · obtain ⟨hb, ho⟩ := readDraws_csrNamed ‹_›
      exact .inr ⟨hb, by simpa using ho⟩
    · exact .inl rfl
  | kmemWrite | kmemRead | pollAgain | pollDone => exact .inl rfl

/-- A host action that keeps the contract makes no draw (R174). -/
theorem HostOutcome.draws_eq_of_keepsContract {act : HostAction} {s t : State} (h : HostOutcome s act t)
    (hk : keepsContract s act = true) : t.draws = s.draws := by
  rcases h.draws_eq_or_accRead with hd | ⟨hb, rfl | rfl⟩
  · exact hd
  · simp [keepsContract, hb] at hk
  · simp [keepsContract, hb] at hk

/-- A command is clean when it is accepted (R90). -/
theorem HostEffect.clean_of_issued {act : HostAction} {s t : State} (h : HostEffect s act t) (hb : s.busy = false)
    (ht : t.busy = true) : t.pendDirty = false := by
  cases h with
  | issued => rfl
  | _ => exact absurd (hb.symm.trans ht) Bool.false_ne_true

/-- A host action that keeps the contract leaves a clean pending command clean (R176). -/
theorem HostEffect.clean_of_keepsContract {act : HostAction} {s t : State} (h : HostEffect s act t)
    (hclean : s.busy = true → s.pendDirty = false) (hk : keepsContract s act = true) (ht : t.busy = true) :
    t.pendDirty = false := by
  cases hb : s.busy with
  | false => exact h.clean_of_issued hb ht
  | true =>
    by_contra hd
    obtain ⟨a, b, rfl, -, hin⟩ := h.dirty_rises (hclean hb) (Bool.eq_true_of_not_eq_false hd)
    simp [keepsContract, hb, hin] at hk

theorem HostEffect.schedule_eq {act : HostAction} {s t : State} (h : HostEffect s act t) :
    t.schedule = s.schedule := by cases h <;> rfl

/-- Every step uses up one entry of the schedule. -/
theorem step_schedule {s t : State} (h : step s = .next t) : t.schedule = s.schedule.tail := by
  cases step_outcome h with
  | engine => exact engineStep_schedule _
  | reset | powerOn | hostOver => rfl
  | host _ _ _ _ _ ho => exact ho.effect.schedule_eq

/-- With the schedule over, a pending command completes at the next step (R94). -/
theorem step_completes {s : State} (hb : s.busy = true) (hs : s.schedule = []) :
    step s = .next (engineStep (takeTurn s)) := by
  have hn : nextAgent s = .engine := by rw [nextAgent, hs]; exact if_pos hb
  rw [step, hn, agentMove]

/-- A turn taken where the schedule is over takes nothing. -/
theorem takeTurn_of_nil {s : State} (h : s.schedule = []) : takeTurn s = s := by
  cases s
  cases h
  rfl

/-- A run is over when the host's program is over and nothing is pending (R103). -/
theorem runOver_iff (s : State) : runOver s = true ↔ s.program = [] ∧ s.busy = false := by
  simp [runOver]

end Sys2Proof.Machine
end

/-! ### Proofs: commands, completion and registers (40_command.md) -/

section

open Sys2Proof Sys2Proof.Machine Sys2Proof.Claims

/-- Settles O9: a CMD write is `exec` of its command where the word decodes, and the latched width and range are those
of `issued`. -/
theorem cmdWriteChecksInOrder : Obligations.CmdWriteChecksInOrder := by
  intro s v
  refine ⟨fun hb => writeCmd_busy v hb, fun hb hd => writeCmd_illegal hb hd, fun i hb hd hh hlen hsize => ?_,
    fun i hb hd hr => ?_⟩
  · have hexec : exec i s = .next (raiseError .range s) :=
      exec_outOfRange hb ((isHash_iff i).2 hh) ((bufferOutOfRange_iff s).2 ⟨hlen, hsize⟩)
    exact (writeCmd_of_decode s hd).trans hexec
  · have hexec : exec i s = .next (issued i s) :=
      exec_accepts (encodeOfDecode v i hd).1 hb fun hh => (bufferInRange_iff s).2 (hr ((isHash_iff i).1 hh))
    calc hostAction (.csrWrite 0x00 v) s
        = exec i s := writeCmd_of_decode s hd
      _ = .next (accept (instrWidth i) (instrRange i s) (execResult i s) s) := hexec
      _ = _ := by rw [instrWidth_of_decode hd, instrRange_eq]; rfl

/-- Settles O11, by induction on the schedule: each step uses up an entry of it, and with the last one gone the engine
moves. -/
theorem pendingCommandEnds : Obligations.PendingCommandEnds := by
  intro s hb
  induction hs : s.schedule generalizing s with
  | nil =>
    exact ⟨1, by simp, .inl ⟨_, runFor_next (k := 0) (step_completes hb hs), engineStep_busy _⟩⟩
  | cons agent rest ih =>
    rcases step_next_or_refused s with ⟨-, t, ht⟩ | ⟨-, r, hr⟩
    · cases htb : t.busy with
      | false => exact ⟨1, by simp, .inl ⟨t, runFor_next (k := 0) ht, htb⟩⟩
      | true =>
        have hrest : t.schedule = rest := by rw [step_schedule ht, hs, List.tail_cons]
        obtain ⟨k, hk, hend⟩ := ih t htb hrest
        exact ⟨k + 1, Nat.succ_le_succ hk, by rwa [runFor_next ht]⟩
    · exact ⟨1, by simp, .inr ⟨r, runFor_refused (k := 0) hr⟩⟩

/-- Settles O13: an issue raises an error or latches the command, and the engine's frame is `engineStep_eq`. -/
theorem commandFrame : Obligations.CommandFrame := by
  refine ⟨fun i s t h => ?_, fun s => by simp, fun s hb => ⟨engineStep_busy s, fun hd => ?_⟩⟩
  · rcases (exec_next h).raised_or_issued with ⟨e, rfl⟩ | ⟨hb, rfl⟩
    · exact ⟨rfl, rfl, rfl, rfl, rfl, fun _ => rfl, rfl, rfl, rfl, rfl, rfl,
        fun hs ht => absurd (hs.symm.trans ht) Bool.false_ne_true, fun _ => ⟨rfl, rfl, rfl, rfl, rfl⟩⟩
    · exact ⟨rfl, rfl, rfl, rfl, rfl, fun _ => rfl, rfl, rfl, rfl, rfl, rfl, fun _ _ => ⟨rfl, rfl⟩,
        fun h => h.elim (fun hs => absurd (hb.symm.trans hs) Bool.false_ne_true) fun ht => by cases ht⟩
  · rw [engineStep_clean hb hd, finish_acc]

/-- Settles O14: of the state the completion reads only what these writes leave as it was (`engineStep_acc`). -/
theorem operandsLatchedAtIssue : Obligations.OperandsLatchedAtIssue := by
  refine ⟨fun s r v _ hr => ?_, fun s a b _ ha hout => ?_⟩
  · obtain ⟨seed, len, addr, data, hw⟩ := writeCsr_operand v s hr
    refine ⟨_, hw, ?_, ?_⟩
    · rw [engineStep_acc, engineStep_acc]; rfl
    · rw [engineStep_draws, engineStep_draws]
  · have hin : inRange s.pendRange a = false := Bool.eq_false_of_not_eq_true fun h => by
      obtain ⟨base, length, hr, hbounds⟩ := (inRange_iff _ _).1 h
      exact hout base length hr hbounds
    refine ⟨_, hostKmemWrite_outside b ha hin, ?_⟩
    rw [engineStep_acc, engineStep_acc]; rfl

/-- Settles O60: of the agents' moves but power-on, only the completion of a dirty command and a host read of ACC while
BUSY = 1 draw, and only a write in the pending range dirties. -/
theorem contractMakesNoDraw : Obligations.ContractMakesNoDraw := by
  intro s t hclean hkeeps hpower h
  cases step_outcome h with
  | engine =>
    refine ⟨?_, fun ht => absurd ((engineStep_busy _).symm.trans ht) Bool.false_ne_true⟩
    rw [engineStep_draws]
    split
    · rw [if_neg (by simpa using hclean ‹_›)]; rfl
    · rfl
  | reset => exact ⟨rfl, fun ht => by cases ht⟩
  | powerOn hn => exact absurd hn hpower
  | hostOver => exact ⟨rfl, hclean⟩
  | host a rest _ hn hp ho =>
    have hk : keepsContract s a = true := hkeeps a (hostTurnAction_of_program hn hp)
    exact ⟨ho.draws_eq_of_keepsContract hk, ho.effect.clean_of_keepsContract hclean hk⟩

/-- Settles O10. -/
theorem engineStepCompletes : Obligations.EngineStepCompletes := by
  refine fun s => ⟨engineStep_idle, engineStep_clean, fun hb hd hw => ?_, fun hb hd hw => ?_⟩
  · exact (engineStep_dirty hb hd).trans (finishDrawn_m32 hw)
  · exact (engineStep_dirty hb hd).trans (finishDrawn_m64 hw)

/-- Settles O12: the write records OVERRUN, which the completion neither reads nor writes. -/
theorem overrunLeavesPending : Obligations.OverrunLeavesPending := fun s v hb =>
  ⟨raiseError .overrun s, writeCmd_busy v hb, hb, rfl, rfl, rfl, rfl, engineStep_setError s _ _⟩

/-- Settles O38. -/
theorem registerReads : Obligations.RegisterReads := by
  intro s
  refine ⟨readsAs_of_value (csrAt_offset .cmd) rfl rfl, readsAs_of_value (csrAt_offset .status) rfl rfl,
    readsAs_of_value (csrAt_offset .seedLo) rfl rfl, readsAs_of_value (csrAt_offset .seedHi) rfl rfl,
    readsAs_of_value (csrAt_offset .len) rfl rfl, readsAs_of_value (csrAt_offset .addr) rfl rfl,
    readsAs_of_value (csrAt_offset .dataLo) rfl rfl, readsAs_of_value (csrAt_offset .dataHi) rfl rfl,
    fun hb => ⟨?_, ?_⟩, fun hb => ⟨?_, ?_⟩, fun offset ho => ?_⟩
  · exact readsFree_of_draw (csrAt_offset .accLo) hb (if_pos hb)
  · exact readsFree_of_draw (csrAt_offset .accHi) hb (if_pos hb)
  · exact readsAs_of_value (csrAt_offset .accLo) hb (if_neg (Bool.eq_false_iff.1 hb))
  · exact readsAs_of_value (csrAt_offset .accHi) hb (if_neg (Bool.eq_false_iff.1 hb))
  · have hat : csrAt offset = .ok .reserved := by fin_cases ho <;> rfl
    exact readsAs_of_value hat rfl rfl

/-- Settles O39. -/
theorem registerWrites : Obligations.RegisterWrites := by
  intro s v
  refine ⟨hostAction_csrWrite v s (csrAt_offset .seedLo), hostAction_csrWrite v s (csrAt_offset .seedHi),
    hostAction_csrWrite v s (csrAt_offset .len), hostAction_csrWrite v s (csrAt_offset .addr),
    hostAction_csrWrite v s (csrAt_offset .dataLo), hostAction_csrWrite v s (csrAt_offset .dataHi),
    fun offset ho => ?_⟩
  have bounds : ∀ o ∈ [0x20, 0x24, 0x28, 0x2C, 0x30, 0x34, 0x38, 0x3C], 0x20 ≤ o ∧ o < 0x40 ∧ o % 4 = 0 := by decide
  obtain ⟨hge, hlt, h4⟩ := bounds offset ho
  exact csrWrite_ignored v s hge hlt h4

/-- Settles O40. -/
theorem statusWriteClearsError : Obligations.StatusWriteClearsError := by
  intro s v
  have hwrite : hostAction (.csrWrite 0x04 v) s = .next (writeStatus v s) :=
    hostAction_csrWrite v s (csrAt_offset .status)
  rw [hwrite, writeStatus]
  constructor
  · intro hv
    rw [if_pos hv, clearError]
  · intro hv
    rw [if_neg (Bool.eq_false_iff.1 hv)]

/-- Settles O16: NOP is a command without a KMEM operand whose Exec is ACC, and while it is pending BUSY = 1. -/
theorem nopRule : Obligations.NopRule := by
  have hacc : ∀ s : State, s.busy = false → (afterCommand .nop s).acc = s.acc := fun s hb =>
    afterCommand_acc rfl hb fun hh => by cases hh
  refine ⟨decodeOfEncode .nop rfl, completes_execResult rfl rfl, overruns_all .nop, fun s hb => ?_,
    fun s hb ha he hc => ?_⟩
  · exact ⟨hacc s hb, readsFree_of_draw (csrAt_offset .accLo) rfl rfl, readsFree_of_draw (csrAt_offset .accHi) rfl rfl⟩
  · refine ⟨(hacc s hb).trans ha, ?_⟩
    rw [afterCommand_accepted rfl hb fun hh => by cases hh]
    exact statusWord_eq_zero rfl he hc

/-- Settles O54: it is the host's turn, the host has no action left, and there is no turn to use up. -/
theorem finishedRunStays : Obligations.FinishedRunStays := by
  intro s hover hs
  obtain ⟨hp, hb⟩ := (runOver_iff s).1 hover
  have hn : nextAgent s = .host := by rw [nextAgent, hs]; exact if_neg (Bool.eq_false_iff.1 hb)
  rw [step, hn, takeTurn_of_nil hs, agentMove, hostStep, hp]

end

/-! ### Proofs: words as bit vectors of any width -/

section
namespace Sys2Proof

/-- XOR with a right shift loses nothing: its top bits are those of the word, and each bit below follows from the bits
above it. -/
theorem xor_ushiftRight_injective {w n : Nat} (hn : 0 < n) : Function.Injective fun x : BitVec w => x ^^^ x >>> n := by
  intro x y hxy
  have hbit : ∀ i, (x.getLsbD i ^^ x.getLsbD (n + i)) = (y.getLsbD i ^^ y.getLsbD (n + i)) := fun i => by
    simpa using congrArg (fun z => z.getLsbD i) hxy
  have above : ∀ d i, w ≤ i + d → x.getLsbD i = y.getLsbD i := by
    intro d
    induction d with
    | zero => intro i hi; rw [BitVec.getLsbD_of_ge x i hi, BitVec.getLsbD_of_ge y i hi]
    | succ d ih =>
      intro i hi
      have hi' := hbit i
      rwa [ih (n + i) (by omega), Bool.xor_left_inj] at hi'
  exact BitVec.eq_of_getLsbD_eq fun i _ => above w i (by omega)

theorem xor_ushiftRight_bijective {w n : Nat} (hn : 0 < n) : Function.Bijective fun x : BitVec w => x ^^^ x >>> n :=
  Finite.injective_iff_bijective.1 (xor_ushiftRight_injective hn)

/-- A wrapping multiply by a number that has an inverse is a bijection. -/
theorem mul_bijective_of_mul_eq_one {w : Nat} {c d : BitVec w} (h : c * d = 1) :
    Function.Bijective fun x : BitVec w => x * c :=
  (Units.mkOfMulEqOne c d h).mulRight_bijective

/-- The lowest n + 1 bytes of a word are byte n at its own place and the lowest n bytes. -/
theorem and_lowBytes_succ {w : Nat} (x : BitVec w) (n : Nat) : x &&& BitVec.ofNat w (2 ^ (8 * (n + 1)) - 1) =
    (x.extractLsb' (8 * n) 8).setWidth w <<< (8 * n) ^^^ (x &&& BitVec.ofNat w (2 ^ (8 * n) - 1)) := by
  refine BitVec.eq_of_getLsbD_eq fun k hk => ?_
  simp only [BitVec.getLsbD_and, BitVec.getLsbD_xor, BitVec.getLsbD_shiftLeft, BitVec.getLsbD_setWidth,
    BitVec.getLsbD_extractLsb', BitVec.getLsbD_ofNat, Nat.testBit_two_pow_sub_one, decide_eq_true hk,
    decide_eq_true (show k - 8 * n < w by omega), Bool.true_and]
  rcases Nat.lt_or_ge k (8 * n) with hlo | hlo
  · simp [hlo, show k < 8 * (n + 1) by omega]
  · have hplace : 8 * n + (k - 8 * n) = k := by omega
    have hbyte : k - 8 * n < 8 ↔ k < 8 * (n + 1) := by omega
    simp [Nat.not_lt.2 hlo, hplace, hbyte, Bool.and_comm]

end Sys2Proof
end

/-! ### Proofs: the datapath of M32 (R110 to R116) -/

section
namespace Sys2Proof.Machine

open Sys2Proof.Claims

/-! #### The tail handler (R113) -/

theorem and_mask32_zero (w : Word) : w &&& mask32 0 = 0#32 := BitVec.and_zero

/-- `mask_32(n + 1)` takes one byte more than `mask_32(n)`. -/
theorem and_mask32_succ (w : Word) (n : Nat) : w &&& mask32 (n + 1) = placedByte32 w n ^^^ (w &&& mask32 n) :=
  and_lowBytes_succ w n

theorem placedByte32_zero (w : Word) : placedByte32 w 0 = (w.extractLsb' 0 8).setWidth 32 := BitVec.shiftLeft_zero _

@[simp] theorem tail32_zero (h w : Word) : tail32 h w 0 = h := rfl

theorem tail32_one (h w : Word) : tail32 h w 1 = (h ^^^ placedByte32 w 0) * m32M := rfl

theorem tail32_two (h w : Word) : tail32 h w 2 = (h ^^^ placedByte32 w 1 ^^^ placedByte32 w 0) * m32M := rfl

theorem tail32_three (h w : Word) :
    tail32 h w 3 = (h ^^^ placedByte32 w 2 ^^^ placedByte32 w 1 ^^^ placedByte32 w 0) * m32M := rfl

/-- A tail that is not empty: the lowest n bytes of the word are XORed in, and there is one multiply. -/
theorem tail32_masked {n : Nat} (hpos : 1 ≤ n) (hn : n ≤ 3) (h w : Word) :
    tail32 h w n = (h ^^^ (w &&& mask32 n)) * m32M := by
  interval_cases n
  · rw [tail32_one, and_mask32_succ, and_mask32_zero, BitVec.xor_zero]
  · rw [tail32_two, and_mask32_succ, and_mask32_succ, and_mask32_zero, BitVec.xor_zero, BitVec.xor_assoc]
  · rw [tail32_three, and_mask32_succ, and_mask32_succ, and_mask32_succ, and_mask32_zero, BitVec.xor_zero,
      BitVec.xor_assoc, BitVec.xor_assoc]

/-- Bytes n and above of the word do not enter the tail. -/
theorem tail32_congr {n : Nat} (hn : n ≤ 3) (h : Word) {w w' : Word} (hw : w &&& mask32 n = w' &&& mask32 n) :
    tail32 h w n = tail32 h w' n := by
  rcases Nat.eq_zero_or_pos n with rfl | hpos
  · rw [tail32_zero, tail32_zero]
  · rw [tail32_masked hpos hn, tail32_masked hpos hn, hw]

/-! #### The initialisation and the final avalanche (R114, R115) -/

@[simp] theorem init32_len_zero (seed : Word) : init32 seed 0 = seed := BitVec.xor_zero

/-- `M32_M` is odd; its inverse is 0xE59B19BD. -/
theorem mul_m32M_bijective : Function.Bijective fun h : Word => h * m32M :=
  mul_bijective_of_mul_eq_one (d := 0xE59B19BD) (by decide)

theorem fmix32_bijective : Function.Bijective fmix32 :=
  ((xor_ushiftRight_bijective (n := m32F2) (by decide)).comp mul_m32M_bijective).comp
    (xor_ushiftRight_bijective (n := m32F1) (by decide))

@[simp] theorem fmix32_zero : fmix32 0 = 0 := by decide

/-! #### The words of the buffer (20_memory.md R53) -/

theorem lowHalf_eq_setWidth (x : DWord) : lowHalf x = x.setWidth 32 :=
  (BitVec.setWidth_eq_extractLsb' (by decide)).symm

theorem memRead32_congr {m m' : Memory} {a a' n : Nat} (h : ∀ j < n, m.read (a + j) = m'.read (a' + j)) :
    memRead32 m a n = memRead32 m' a' n :=
  congrArg lowHalf (memRead_congr m m' a a' n h)

/-- One byte alone is zero-extended. -/
theorem memRead32_one {m : Memory} {a : Nat} {b : Byte} (h : m.read a = b) : memRead32 m a 1 = b.setWidth 32 := by
  rw [memRead32, memRead_succ, memRead_zero, Nat.add_zero, h, lowHalf_eq_setWidth]
  simp

/-- Four bytes side by side, the one at the lowest address last. -/
theorem memRead32_four {m : Memory} {a : Nat} {b₀ b₁ b₂ b₃ : Byte} (h₀ : m.read a = b₀)
    (h₁ : m.read (a + 1) = b₁) (h₂ : m.read (a + 2) = b₂) (h₃ : m.read (a + 3) = b₃) :
    memRead32 m a 4 =
      lowHalf (b₀.setWidth 64 + b₁.setWidth 64 <<< 8 + b₂.setWidth 64 <<< 16 + b₃.setWidth 64 <<< 24) := by
  simp [memRead32, h₀, h₁, h₂, h₃]

/-! #### The whole buffer (R116) -/

@[simp] theorem foldWords32_zero (m : Memory) (a : Nat) (h : Word) : foldWords32 m a h 0 = h := rfl

theorem foldWords32_succ (m : Memory) (a : Nat) (h : Word) (i : Nat) :
    foldWords32 m a h (i + 1) = fold32 (foldWords32 m a h i) (memRead32 m (a + 4 * i) 4) := rfl

/-- The loop is a left fold over the words' numbers in rising order. -/
theorem foldWords32_eq_foldl (m : Memory) (a : Nat) (h : Word) (k : Nat) : foldWords32 m a h k =
    (List.range k).foldl (fun h i => fold32 h ((memRead m (a + 4 * i) 4).setWidth 32)) h := by
  induction k with
  | zero => rfl
  | succ k ih => rw [foldWords32_succ, List.range_succ, List.foldl_concat, ← ih, memRead32, lowHalf_eq_setWidth]

/-- The loop over k words reads the first 4k bytes and nothing else. -/
theorem foldWords32_congr {m m' : Memory} {a a' k : Nat} (h : Word)
    (hread : ∀ j < 4 * k, m.read (a + j) = m'.read (a' + j)) : foldWords32 m a h k = foldWords32 m' a' h k := by
  induction k with
  | zero => rfl
  | succ k ih =>
    have hword : memRead32 m (a + 4 * k) 4 = memRead32 m' (a' + 4 * k) 4 := memRead32_congr fun j hj => by
      simpa only [Nat.add_assoc] using hread (4 * k + j) (by omega)
    rw [foldWords32_succ, foldWords32_succ, hword, ih fun j hj => hread j (by omega)]

theorem bufferHash32_eq (m : Memory) (a : Nat) (len seed : Word) : bufferHash32 m a len seed =
    fmix32 (tail32 (foldWords32 m a (init32 seed len) (len.toNat / 4))
      (memRead32 m (a + 4 * (len.toNat / 4)) (len.toNat % 4)) (len.toNat % 4)) := rfl

/-- Without a whole word only the tail is read. -/
theorem bufferHash32_of_lt_four (m : Memory) (a : Nat) {len : Word} (seed : Word) (hlen : len.toNat < 4) :
    bufferHash32 m a len seed = fmix32 (tail32 (init32 seed len) (memRead32 m a len.toNat) len.toNat) := by
  rw [bufferHash32_eq, Nat.div_eq_of_lt hlen, Nat.mod_eq_of_lt hlen]
  rfl

/-- With whole words alone there is no tail. -/
theorem bufferHash32_of_mod_four (m : Memory) (a : Nat) {len : Word} (seed : Word) (hlen : len.toNat % 4 = 0) :
    bufferHash32 m a len seed = fmix32 (foldWords32 m a (init32 seed len) (len.toNat / 4)) := by
  rw [bufferHash32_eq, hlen, tail32_zero]

/-- The empty buffer's digest is the final avalanche of the seed. -/
theorem bufferHash32_empty (m : Memory) (a : Nat) (seed : Word) : bufferHash32 m a 0 seed = fmix32 seed := by
  rw [bufferHash32_of_mod_four m a seed rfl, init32_len_zero]
  rfl

/-- The hash reads the buffer's bytes and nothing else of KMEM. -/
theorem bufferHash32_congr {m m' : Memory} {a a' : Nat} {len : Word} (seed : Word)
    (hread : ∀ j < len.toNat, m.read (a + j) = m'.read (a' + j)) :
    bufferHash32 m a len seed = bufferHash32 m' a' len seed := by
  have hwords : foldWords32 m a (init32 seed len) (len.toNat / 4) =
      foldWords32 m' a' (init32 seed len) (len.toNat / 4) := foldWords32_congr _ fun j hj => hread j (by omega)
  have htail : memRead32 m (a + 4 * (len.toNat / 4)) (len.toNat % 4) =
      memRead32 m' (a' + 4 * (len.toNat / 4)) (len.toNat % 4) := memRead32_congr fun j hj => by
    simpa only [Nat.add_assoc] using hread (4 * (len.toNat / 4) + j) (by omega)
  rw [bufferHash32_eq, bufferHash32_eq, hwords, htail]

end Sys2Proof.Machine
end

/-! ### Proofs: commands waited out, ill-formed terms and the HASH commands of both mixers -/

section
namespace Sys2Proof.Machine

open Sys2Proof.Claims

/-- A command that was waited out, accepted or not, leaves the block idle. -/
@[simp] theorem afterCommand_busy (i : Instr) (s : State) : (afterCommand i s).busy = false := by
  obtain ⟨t, ht, -⟩ := exec_outcome i s
  rw [afterCommand, ht]
  exact engineStep_busy t

/-- A command that was waited out has left the operands of the HASH commands as they were. -/
theorem afterCommand_operands (i : Instr) (s : State) : (afterCommand i s).seed = s.seed ∧
    (afterCommand i s).len = s.len ∧ (afterCommand i s).addr = s.addr ∧ (afterCommand i s).kmem = s.kmem := by
  obtain ⟨t, ht, ho⟩ := exec_outcome i s
  rw [afterCommand, ht]
  simp only [engineStep_seed, engineStep_len, engineStep_addr, engineStep_kmem]
  rcases ho.raised_or_issued with ⟨e, rfl⟩ | ⟨-, rfl⟩
  · exact ⟨rfl, rfl, rfl, rfl⟩
  · exact ⟨rfl, rfl, rfl, rfl⟩

/-- A command without a KMEM operand leaves Exec in ACC from every idle state. -/
theorem afterCommand_acc_plain {i : Instr} {s : State} (hb : s.busy = false) (hw : i.wellFormed = true)
    (hh : isHash i = false) : (afterCommand i s).acc = execResult i s :=
  afterCommand_acc hw hb fun h => absurd (hh.symm.trans h) Bool.false_ne_true

/-- A term without a command word is turned away by an idle block as an ILLEGAL word is (log entry 9). -/
theorem exec_illFormed {i : Instr} {s : State} (hb : s.busy = false) (hw : i.wellFormed = false) :
    exec i s = .next (raiseError .illegalCmd s) := by
  obtain ⟨t, ht, ho⟩ := exec_outcome i s
  cases ho with
  | overrun h => exact absurd (hb.symm.trans h) Bool.false_ne_true
  | illegal => exact ht
  | range _ hh => exact absurd (hw.symm.trans (wellFormed_of_isHash hh)) Bool.false_ne_true
  | accepted _ h => exact absurd (hw.symm.trans h) Bool.false_ne_true

section Hash

variable {i : Instr} (hh : isHash i = true)
include hh

/-- A HASH command latches its buffer as its range. -/
theorem issued_hash_eq_latched (s : State) : issued i s =
    latched (instrWidth i) (if s.len = 0 then none else some (s.addr.toNat, s.len.toNat)) (execResult i s) s := by
  rw [issued, instrRange, if_pos hh, bufferRange_eq]
  rfl

theorem hashCompletes_execResult : hashCompletes i (instrWidth i) (execResult i) := by
  intro s hb hr
  constructor
  · rw [exec_accepts (wellFormed_of_isHash hh) hb fun _ => (bufferInRange_iff s).2 hr, issued_hash_eq_latched hh s]
  · exact engineStep_clean rfl rfl

theorem rangeChecked_of_isHash : rangeChecked i := fun s hb hlen hsize =>
  exec_outOfRange hb hh ((bufferOutOfRange_iff s).2 ⟨hlen, hsize⟩)

/-- An accepted HASH command leaves its digest in ACC. -/
theorem afterCommand_hash_acc {s : State} (hb : s.busy = false)
    (hr : s.len = 0 ∨ s.addr.toNat + s.len.toNat ≤ s.kmem.size) : (afterCommand i s).acc = execResult i s :=
  afterCommand_acc (wellFormed_of_isHash hh) hb fun _ => (bufferInRange_iff s).2 hr

/-- A host write into the buffer of a pending HASH command raises no error, and the completion is a free draw of the
command's width (R35, R93). -/
theorem hash_dirtied (s : State) {a : Nat} (b : Byte) (hb : s.busy = false)
    (hsize : s.addr.toNat + s.len.toNat ≤ s.kmem.size) (hlo : s.addr.toNat ≤ a)
    (hhi : a < s.addr.toNat + s.len.toNat) :
    ∃ t u, exec i s = .next t ∧ hostKmemWrite a b t = .next u ∧ u.err = s.err ∧ u.pendWidth = instrWidth i ∧
      engineStep u = finishDrawn u := by
  have hlen : s.len ≠ 0 := fun h => by
    rw [h] at hhi
    exact absurd hhi (Nat.not_lt.2 hlo)
  have hrange : (issued i s).pendRange = some (s.addr.toNat, s.len.toNat) := by
    rw [issued_hash_eq_latched hh s]
    exact if_neg hlen
  have hin : inRange (issued i s).pendRange a = true := (inRange_iff _ _).2 ⟨_, _, hrange, hlo, hhi⟩
  refine ⟨issued i s, noteDirty a { issued i s with kmem := s.kmem.write a b },
    exec_accepts (wellFormed_of_isHash hh) hb fun _ => (bufferInRange_iff s).2 (.inr hsize),
    if_pos (Nat.lt_of_lt_of_le hhi hsize), rfl, rfl, engineStep_dirty rfl ?_⟩
  rw [noteDirty_pendDirty]
  exact Bool.or_eq_true_iff.2 (.inr hin)

end Hash

/-! #### HASH32 and the sequence of R122 -/

theorem execResult_hash32 (s : State) : execResult .hash32 s =
    zext64 (bufferHash32 s.kmem s.addr.toNat s.len (seed32 s)) := rfl

/-- The digest depends on SEED[31:0], LEN and the buffer's bytes alone. -/
theorem execResult_hash32_congr {s t : State} (hseed : seed32 s = seed32 t) (hlen : s.len = t.len)
    (hread : ∀ j < s.len.toNat, s.kmem.read (s.addr.toNat + j) = t.kmem.read (t.addr.toNat + j)) :
    execResult .hash32 s = execResult .hash32 t := by
  rw [execResult_hash32, execResult_hash32, hseed, bufferHash32_congr (seed32 t) hread, hlen]

@[simp] theorem afterWrite_dataLo_busy (v : Word) (s : State) : (afterWrite .dataLo v s).busy = s.busy := rfl

@[simp] theorem acc32_afterWrite_dataLo (v : Word) (s : State) : acc32 (afterWrite .dataLo v s) = acc32 s := rfl

@[simp] theorem data32_afterWrite_dataLo (v : Word) (s : State) : data32 (afterWrite .dataLo v s) = v :=
  lowHalf_joinHalves (highHalf s.data) v

/-- An M32 result is zero-extended into ACC, so ACC[31:0] is the result. -/
theorem acc32_of_zext {s : State} {x : Word} (h : s.acc = zext64 x) : acc32 s = x := by
  rw [acc32, h, lowHalf_zext64]

theorem afterCommand_init32_acc {s : State} (hb : s.busy = false) :
    (afterCommand .init32 s).acc = zext64 (init32 (seed32 s) s.len) := afterCommand_acc_plain hb rfl rfl

theorem afterCommand_word32_acc {s : State} (hb : s.busy = false) :
    (afterCommand .word32 s).acc = zext64 (fold32 (acc32 s) (data32 s)) := afterCommand_acc_plain hb rfl rfl

theorem afterCommand_tail32_acc {n : Nat} {s : State} (hb : s.busy = false) (hn : n ≤ 3) :
    (afterCommand (.tail32 n) s).acc = zext64 (tail32 (acc32 s) (data32 s) n) :=
  afterCommand_acc_plain hb (decide_eq_true hn) rfl

theorem afterCommand_final32_acc {s : State} (hb : s.busy = false) :
    (afterCommand .final32 s).acc = zext64 (fmix32 (acc32 s)) := afterCommand_acc_plain hb rfl rfl

theorem feedWords32_busy (m : Memory) (a k : Nat) {s : State} (hb : s.busy = false) :
    (feedWords32 m a k s).busy = false := by
  cases k with
  | zero => exact hb
  | succ k => exact afterCommand_busy _ _

/-- WORD32 after WORD32 runs the loop of R116 in ACC[31:0]. -/
theorem acc32_feedWords32 (m : Memory) (a k : Nat) {s : State} (hb : s.busy = false) :
    acc32 (feedWords32 m a k s) = foldWords32 m a (acc32 s) k := by
  induction k with
  | zero => rfl
  | succ k ih =>
    have hfed : (afterWrite .dataLo (memRead32 m (a + 4 * k) 4) (feedWords32 m a k s)).busy = false :=
      (afterWrite_dataLo_busy _ _).trans (feedWords32_busy m a k hb)
    rw [feedWords32, acc32_of_zext (afterCommand_word32_acc hfed), acc32_afterWrite_dataLo, data32_afterWrite_dataLo,
      ih, foldWords32_succ]

end Sys2Proof.Machine
end

/-! ### Proofs: M32 (41_mix32.md) -/

section

open Sys2Proof Sys2Proof.Machine Sys2Proof.Claims

/-- Settles O28: byte by byte the handler is its definition, and the masked form is `tail32_masked`. -/
theorem m32TailHandler : Obligations.M32TailHandler := by
  intro h w
  refine ⟨rfl, ?_, ?_, ?_, fun n hn => ?_⟩
  · rw [tail32_one, placedByte32_zero]; rfl
  · rw [tail32_two, placedByte32_zero]; rfl
  · rw [tail32_three, placedByte32_zero]; rfl
  · split
    · subst n; rfl
    · exact tail32_masked (by omega) hn h w

/-- Settles O30. -/
theorem m32FinalPermutation : Obligations.M32FinalPermutation :=
  ⟨fun _ => rfl, xor_ushiftRight_bijective (by decide), mul_m32M_bijective, xor_ushiftRight_bijective (by decide),
    fmix32_bijective, fmix32_zero⟩

/-- Settles O32: the loop of the model is a left fold (`foldWords32_eq_foldl`). -/
theorem hash32IsWordLoop : Obligations.Hash32IsWordLoop := by
  intro m a len seed
  rw [bufferHash32_eq, foldWords32_eq_foldl, memRead32, lowHalf_eq_setWidth]

/-- Settles O19: the legal counts have a word and complete with Exec, the others are illegal; what the tail reads of
DATA is `tail32_masked`. -/
theorem tail32Rule : Obligations.Tail32Rule := by
  refine ⟨fun n hn => ?_, fun n => overruns_all _, fun n h4 h15 => ?_, fun n h4 s hb => ?_, fun s hb => ?_,
    fun n hn h w w' hw => tail32_congr hn h hw, fun n hpos hn h w => ⟨tail32_masked hpos hn h w, fun hx => ?_⟩,
    fun s hb hacc hdata => ?_⟩
  · have hw : (Instr.tail32 n).wellFormed = true := decide_eq_true hn
    exact ⟨decodeOfEncode (.tail32 n) hw, completes_execResult hw rfl⟩
  · have fields : ∀ n < 16, ((0x03 : Word) ||| BitVec.ofNat 32 n <<< 4).extractLsb' 0 4 = 0x3 ∧
        (((0x03 : Word) ||| BitVec.ofNat 32 n <<< 4).extractLsb' 4 4).toNat = n := by decide
    obtain ⟨hop, hcount⟩ := fields n (by omega)
    exact (illegalCommandWords _).2 (.inr (.inr (.inr (.inl ⟨hop, hcount.symm ▸ h4⟩))))
  · exact exec_illFormed hb (decide_eq_false (by omega))
  · exact afterCommand_tail32_acc hb (Nat.zero_le 3)
  · rw [tail32_masked hpos hn, hx]
    rfl
  · have hacc32 : acc32 s = 0 := by rw [acc32, hacc]; rfl
    have hdata32 : data32 s &&& mask32 3 = 0xAABBCCDD &&& mask32 3 := by
      rcases hdata with h | h
      · exact congrArg (· &&& mask32 3) h
      · exact (congrArg (· &&& mask32 3) h).trans (by decide)
    rw [afterCommand_tail32_acc hb (Nat.le_refl 3), hacc32, tail32_congr (Nat.le_refl 3) 0 hdata32]
    decide

/-- Settles O20. -/
theorem final32Rule : Obligations.Final32Rule := by
  refine ⟨decodeOfEncode .final32 rfl, completes_execResult rfl rfl, overruns_all .final32, fun s hb hacc => ?_,
    fmix32_bijective.injective, ⟨1, by decide⟩, fun s hb hacc => ?_⟩
  · rw [afterCommand_final32_acc hb, acc32, hacc]
    decide
  · rw [afterCommand_final32_acc hb, acc32, hacc]
    decide

/-- Settles O21: acceptance, RANGE and the dirtied buffer are those of both HASH commands; the digest is R116 at the
length's corners. -/
theorem hash32Rule : Obligations.Hash32Rule := by
  refine ⟨decodeOfEncode .hash32 rfl, hashCompletes_execResult rfl, overruns_all .hash32, rangeChecked_of_isHash rfl,
    fun s a b hb hsize hlo hhi => ?_, bufferHash32_empty, fun m a len seed => bufferHash32_of_lt_four m a seed,
    fun m a len seed => bufferHash32_of_mod_four m a seed, fun m a => ⟨?_, fun h₀ => ?_⟩,
    fun m a h₀ h₁ h₂ h₃ h₄ => ?_⟩
  · obtain ⟨t, u, hexec, hwrite, herr, hwidth, hengine⟩ := hash_dirtied (i := .hash32) rfl s b hb hsize hlo hhi
    refine ⟨t, u, hexec, hwrite, herr, ?_⟩
    rw [hengine, finishDrawn_m32 hwidth]
    rfl
  · rw [bufferHash32_empty, fmix32_zero]
  · have hbyte : memRead32 m a (1 : Word).toNat = 0x01 := memRead32_one h₀
    rw [bufferHash32_of_lt_four m a 0 (by decide), hbyte]
    decide
  · have hword : memRead32 m (a + 4 * 0) 4 = 0x04030201 := (memRead32_four h₀ h₁ h₂ h₃).trans (by decide)
    have hbyte : memRead32 m (a + 4 * ((5 : Word).toNat / 4)) ((5 : Word).toNat % 4) = 0x05 := memRead32_one h₄
    rw [bufferHash32_eq, hbyte, show (5 : Word).toNat / 4 = 0 + 1 by decide, foldWords32_succ, foldWords32_zero, hword]
    decide

/-- Settles O34: each command of the sequence leaves in ACC[31:0] what the next one reads (`acc32_feedWords32`). -/
theorem hash32IsItsPrimitives : Obligations.Hash32IsItsPrimitives := by
  intro s hb hr
  refine ⟨afterCommand_busy _ _, ?_⟩
  have hinit : acc32 (afterCommand .init32 s) = init32 (seed32 s) s.len := acc32_of_zext (afterCommand_init32_acc hb)
  have hfed : (afterWrite .dataLo (memRead32 s.kmem (s.addr.toNat + 4 * (s.len.toNat / 4)) (s.len.toNat % 4))
      (feedWords32 s.kmem s.addr.toNat (s.len.toNat / 4) (afterCommand .init32 s))).busy = false :=
    (afterWrite_dataLo_busy _ _).trans (feedWords32_busy _ _ _ (afterCommand_busy _ _))
  have hcount : s.len.toNat % 4 ≤ 3 := by omega
  calc (primitives32 s).acc
      = zext64 (fmix32 (tail32 (foldWords32 s.kmem s.addr.toNat (init32 (seed32 s) s.len) (s.len.toNat / 4))
          (memRead32 s.kmem (s.addr.toNat + 4 * (s.len.toNat / 4)) (s.len.toNat % 4)) (s.len.toNat % 4))) := by
        rw [primitives32, afterCommand_final32_acc (afterCommand_busy _ _),
          acc32_of_zext (afterCommand_tail32_acc hfed hcount), acc32_afterWrite_dataLo, data32_afterWrite_dataLo,
          acc32_feedWords32 _ _ _ (afterCommand_busy _ _), hinit]
    _ = execResult .hash32 s := (execResult_hash32 s).symm
    _ = (afterCommand .hash32 s).acc := (afterCommand_hash_acc rfl hb hr).symm

/-- Settles O36: the digest is a function of the seed, the length and the buffer's bytes (`bufferHash32_congr`), none of
which a HASH32 changes; for LEN = 0 it is the permutation fmix32 of the seed. -/
theorem hash32Determinism : Obligations.Hash32Determinism := by
  refine ⟨fun s t hseed hlen hread => ?_, fun s hb hr => ?_, fun m a seed seed' hne => ?_, fun m a => ⟨?_, ?_⟩⟩
  · exact execResult_hash32_congr hseed hlen hread
  · obtain ⟨hseed, hlen, haddr, hkmem⟩ := afterCommand_operands .hash32 s
    calc (afterCommand .hash32 (afterCommand .hash32 s)).acc
        = execResult .hash32 (afterCommand .hash32 s) :=
          afterCommand_hash_acc rfl (afterCommand_busy _ _) (by rwa [hlen, haddr, hkmem])
      _ = execResult .hash32 s :=
          execResult_hash32_congr (congrArg lowHalf hseed) hlen fun j _ => by rw [haddr, hkmem]
      _ = (afterCommand .hash32 s).acc := (afterCommand_hash_acc rfl hb hr).symm
  · rw [bufferHash32_empty, bufferHash32_empty]
    exact fmix32_bijective.injective.ne hne
  · rw [bufferHash32_empty, fmix32_zero]
  · rw [bufferHash32_empty]
    decide

/-- Settles O17. -/
theorem init32Rule : Obligations.Init32Rule := by
  refine ⟨decodeOfEncode .init32 rfl, completes_execResult rfl rfl, overruns_all .init32, fun s hb hlen => ?_,
    fun s hb hseed => ?_, fun s hb hseed hlen => ?_⟩
  · rw [afterCommand_init32_acc hb, hlen, init32_len_zero]
    rfl
  · have hseed32 : seed32 s = s.len := hseed
    rw [afterCommand_init32_acc hb, hseed32, init32, BitVec.xor_self]
    rfl
  · have hseed32 : seed32 s = 0x12345678 := hseed
    rw [afterCommand_init32_acc hb, hseed32, hlen]
    decide

/-- Settles O18. -/
theorem word32Rule : Obligations.Word32Rule := by
  have hzero : kmix32 0 = 0#32 := by decide
  refine ⟨decodeOfEncode .word32 rfl, completes_execResult rfl rfl, overruns_all .word32, hzero, fun h => ?_,
    fun k => ?_, fun s hb hacc hdata => ?_⟩
  · rw [fold32, hzero, BitVec.xor_zero]
    rfl
  · exact (congrArg (· ^^^ kmix32 k) BitVec.zero_mul).trans BitVec.zero_xor
  · have hdata32 : data32 s = 0x04030201 := hdata
    rw [afterCommand_word32_acc hb, acc32, hacc, hdata32]
    decide

/-- Settles O27: each datapath function is its definition, the constants written as numbers. -/
theorem mixerDatapaths : Obligations.MixerDatapaths :=
  ⟨fun _ => rfl, fun _ _ => rfl, fun _ _ => rfl, fun _ => rfl, fun _ _ => rfl, fun _ _ => rfl⟩

end

/-! ### Proofs: the datapath of M64 (R130 to R136) -/

section
namespace Sys2Proof.Machine

open Sys2Proof.Claims

/-! #### The tail handler (R133) -/

theorem and_mask64_zero (w : DWord) : w &&& mask64 0 = 0#64 := BitVec.and_zero

/-- `mask_64(n + 1)` takes one byte more than `mask_64(n)`. -/
theorem and_mask64_succ (w : DWord) (n : Nat) : w &&& mask64 (n + 1) = placedByte64 w n ^^^ (w &&& mask64 n) :=
  and_lowBytes_succ w n

/-- The fallthrough XORs in the lowest n bytes of the word. -/
theorem xorTail64_masked (w x : DWord) (n : Nat) : xorTail64 w n x = x ^^^ (w &&& mask64 n) := by
  induction n generalizing x with
  | zero => rw [xorTail64, and_mask64_zero, BitVec.xor_zero]
  | succ n ih => rw [xorTail64, ih, and_mask64_succ, BitVec.xor_assoc]

/-- The fallthrough is a left fold over the bytes' numbers in falling order. -/
theorem xorTail64_eq_foldl (w x : DWord) (n : Nat) : xorTail64 w n x =
    (List.range n).reverse.foldl (fun x j => x ^^^ (w.extractLsb' (8 * j) 8).setWidth 64 <<< (8 * j)) x := by
  induction n generalizing x with
  | zero => rfl
  | succ n ih => rw [xorTail64, ih, List.range_succ, List.reverse_concat, List.foldl_cons, placedByte64]

@[simp] theorem tail64_zero (h w : DWord) : tail64 h w 0 = h := rfl

theorem tail64_pos {n : Nat} (hpos : 1 ≤ n) (h w : DWord) : tail64 h w n = xorTail64 w n h * m64M :=
  if_neg (by omega)

/-- A tail that is not empty: the lowest n bytes of the word are XORed in, and there is one multiply. -/
theorem tail64_masked {n : Nat} (hpos : 1 ≤ n) (h w : DWord) : tail64 h w n = (h ^^^ (w &&& mask64 n)) * m64M := by
  rw [tail64_pos hpos, xorTail64_masked]

/-- Bytes n and above of the word do not enter the tail. -/
theorem tail64_congr {n : Nat} (h : DWord) {w w' : DWord} (hw : w &&& mask64 n = w' &&& mask64 n) :
    tail64 h w n = tail64 h w' n := by
  rcases Nat.eq_zero_or_pos n with rfl | hpos
  · rw [tail64_zero, tail64_zero]
  · rw [tail64_masked hpos, tail64_masked hpos, hw]

/-! #### The fold, the initialisation and the final avalanche (R132, R134, R135) -/

/-- An all-zero word leaves the multiply of the accumulator. -/
@[simp] theorem fold64_word_zero (h : DWord) : fold64 h 0 = h * m64M := by
  rw [fold64, show kmix64 0 = 0#64 by decide, BitVec.xor_zero]

@[simp] theorem fold64_acc_zero (k : DWord) : fold64 0 k = kmix64 k * m64M :=
  congrArg (· * m64M) BitVec.zero_xor

@[simp] theorem init64_len_zero (seed : DWord) : init64 seed 0 = seed := by
  rw [init64, show zext64 0 * m64M = 0#64 by decide, BitVec.xor_zero]

/-- `M64_M` is odd; its inverse is 0x5F7A0EA7E59B19BD. -/
theorem mul_m64M_bijective : Function.Bijective fun h : DWord => h * m64M :=
  mul_bijective_of_mul_eq_one (d := 0x5F7A0EA7E59B19BD) (by decide)

theorem xor_ushiftRight_m64R_bijective : Function.Bijective fun h : DWord => h ^^^ h >>> m64R :=
  xor_ushiftRight_bijective (by decide)

theorem fmix64_bijective : Function.Bijective fmix64 :=
  (xor_ushiftRight_m64R_bijective.comp mul_m64M_bijective).comp xor_ushiftRight_m64R_bijective

@[simp] theorem fmix64_zero : fmix64 0 = 0 := by decide

/-! #### The whole buffer (R136) -/

@[simp] theorem foldWords64_zero (m : Memory) (a : Nat) (h : DWord) : foldWords64 m a h 0 = h := rfl

theorem foldWords64_succ (m : Memory) (a : Nat) (h : DWord) (i : Nat) :
    foldWords64 m a h (i + 1) = fold64 (foldWords64 m a h i) (memRead m (a + 8 * i) 8) := rfl

/-- The loop is a left fold over the words' numbers in rising order. -/
theorem foldWords64_eq_foldl (m : Memory) (a : Nat) (h : DWord) (k : Nat) : foldWords64 m a h k =
    (List.range k).foldl (fun h i => fold64 h (memRead m (a + 8 * i) 8)) h := by
  induction k with
  | zero => rfl
  | succ k ih => rw [foldWords64_succ, List.range_succ, List.foldl_concat, ← ih]

/-- The loop over k words reads the first 8k bytes and nothing else. -/
theorem foldWords64_congr {m m' : Memory} {a a' k : Nat} (h : DWord)
    (hread : ∀ j < 8 * k, m.read (a + j) = m'.read (a' + j)) : foldWords64 m a h k = foldWords64 m' a' h k := by
  induction k with
  | zero => rfl
  | succ k ih =>
    have hword : memRead m (a + 8 * k) 8 = memRead m' (a' + 8 * k) 8 := memRead_congr _ _ _ _ _ fun j hj => by
      simpa only [Nat.add_assoc] using hread (8 * k + j) (by omega)
    rw [foldWords64_succ, foldWords64_succ, hword, ih fun j hj => hread j (by omega)]

theorem bufferHash64_eq (m : Memory) (a : Nat) (len : Word) (seed : DWord) : bufferHash64 m a len seed =
    fmix64 (tail64 (foldWords64 m a (init64 seed len) (len.toNat / 8))
      (memRead m (a + 8 * (len.toNat / 8)) (len.toNat % 8)) (len.toNat % 8)) := rfl

/-- Without a whole word only the tail is read. -/
theorem bufferHash64_of_lt_eight (m : Memory) (a : Nat) {len : Word} (seed : DWord) (hlen : len.toNat < 8) :
    bufferHash64 m a len seed = fmix64 (tail64 (init64 seed len) (memRead m a len.toNat) len.toNat) := by
  rw [bufferHash64_eq, Nat.div_eq_of_lt hlen, Nat.mod_eq_of_lt hlen, foldWords64_zero, Nat.mul_zero, Nat.add_zero]

/-- With whole words alone there is no tail. -/
theorem bufferHash64_of_mod_eight (m : Memory) (a : Nat) {len : Word} (seed : DWord) (hlen : len.toNat % 8 = 0) :
    bufferHash64 m a len seed = fmix64 (foldWords64 m a (init64 seed len) (len.toNat / 8)) := by
  rw [bufferHash64_eq, hlen, tail64_zero]

/-- The empty buffer's digest is the final avalanche of the seed. -/
theorem bufferHash64_empty (m : Memory) (a : Nat) (seed : DWord) : bufferHash64 m a 0 seed = fmix64 seed := by
  rw [bufferHash64_of_mod_eight m a seed rfl, init64_len_zero]
  rfl

/-- The hash reads the buffer's bytes and nothing else of KMEM. -/
theorem bufferHash64_congr {m m' : Memory} {a a' : Nat} {len : Word} (seed : DWord)
    (hread : ∀ j < len.toNat, m.read (a + j) = m'.read (a' + j)) :
    bufferHash64 m a len seed = bufferHash64 m' a' len seed := by
  have hwords : foldWords64 m a (init64 seed len) (len.toNat / 8) =
      foldWords64 m' a' (init64 seed len) (len.toNat / 8) := foldWords64_congr _ fun j hj => hread j (by omega)
  have htail : memRead m (a + 8 * (len.toNat / 8)) (len.toNat % 8) =
      memRead m' (a' + 8 * (len.toNat / 8)) (len.toNat % 8) := memRead_congr _ _ _ _ _ fun j hj => by
    simpa only [Nat.add_assoc] using hread (8 * (len.toNat / 8) + j) (by omega)
  rw [bufferHash64_eq, bufferHash64_eq, hwords, htail]

end Sys2Proof.Machine
end

/-! ### Proofs: M64 commands waited out and the sequence of R142 -/

section
namespace Sys2Proof.Machine

open Sys2Proof.Claims

theorem execResult_hash64 (s : State) : execResult .hash64 s =
    bufferHash64 s.kmem s.addr.toNat s.len s.seed := rfl

/-! #### DATA by two register writes -/

@[simp] theorem afterData_busy (w : DWord) (s : State) : (afterData w s).busy = s.busy := rfl

@[simp] theorem afterData_acc (w : DWord) (s : State) : (afterData w s).acc = s.acc := rfl

/-- The write of DATA_HI keeps the low half, so both halves are those of the value. -/
@[simp] theorem afterData_data (w : DWord) (s : State) : (afterData w s).data = w :=
  calc (afterData w s).data
      = joinHalves (highHalf w) (lowHalf (joinHalves (highHalf s.data) (lowHalf w))) := rfl
    _ = w := by rw [lowHalf_joinHalves, joinHalves_halves]

/-! #### ACC after each command -/

theorem afterCommand_init64_acc {s : State} (hb : s.busy = false) :
    (afterCommand .init64 s).acc = init64 s.seed s.len := afterCommand_acc_plain hb rfl rfl

theorem afterCommand_word64_acc {s : State} (hb : s.busy = false) :
    (afterCommand .word64 s).acc = fold64 s.acc s.data := afterCommand_acc_plain hb rfl rfl

theorem afterCommand_tail64_acc {n : Nat} {s : State} (hb : s.busy = false) (hn : n ≤ 7) :
    (afterCommand (.tail64 n) s).acc = tail64 s.acc s.data n :=
  afterCommand_acc_plain hb (decide_eq_true hn) rfl

theorem afterCommand_final64_acc {s : State} (hb : s.busy = false) :
    (afterCommand .final64 s).acc = fmix64 s.acc := afterCommand_acc_plain hb rfl rfl

theorem feedWords64_busy (m : Memory) (a k : Nat) {s : State} (hb : s.busy = false) :
    (feedWords64 m a k s).busy = false := by
  cases k with
  | zero => exact hb
  | succ k => exact afterCommand_busy _ _

/-- WORD64 after WORD64 runs the loop of R136 in ACC. -/
theorem feedWords64_acc (m : Memory) (a k : Nat) {s : State} (hb : s.busy = false) :
    (feedWords64 m a k s).acc = foldWords64 m a s.acc k := by
  induction k with
  | zero => rfl
  | succ k ih =>
    have hfed : (afterData (memRead m (a + 8 * k) 8) (feedWords64 m a k s)).busy = false :=
      (afterData_busy _ _).trans (feedWords64_busy m a k hb)
    rw [feedWords64, afterCommand_word64_acc hfed, afterData_acc, afterData_data, ih, foldWords64_succ]

end Sys2Proof.Machine
end

/-! ### Proofs: M64 (42_mix64.md) -/

section

open Sys2Proof Sys2Proof.Machine Sys2Proof.Claims

/-- Settles O29: the fallthrough is `xorTail64_eq_foldl`, the masked form `tail64_masked`. -/
theorem m64TailHandler : Obligations.M64TailHandler := by
  intro h w n _
  rcases Nat.eq_zero_or_pos n with rfl | hpos
  · exact ⟨(if_pos rfl).symm, (if_pos rfl).symm⟩
  · have hne : n ≠ 0 := Nat.ne_of_gt hpos
    constructor
    · rw [if_neg hne, tail64_pos hpos, xorTail64_eq_foldl, m64M]
    · rw [if_neg hne, tail64_masked hpos, m64M]

/-- Settles O31. -/
theorem m64FinalPermutation : Obligations.M64FinalPermutation :=
  ⟨fun _ => rfl, xor_ushiftRight_m64R_bijective, mul_m64M_bijective, fmix64_bijective, fmix64_zero⟩

/-- Settles O33: the loop of the model is a left fold (`foldWords64_eq_foldl`). -/
theorem hash64IsWordLoop : Obligations.Hash64IsWordLoop := by
  intro m a len seed
  rw [bufferHash64_eq, foldWords64_eq_foldl]

/-- Settles O24: the legal counts have a word and complete with Exec, the others are illegal; what the tail reads of
DATA is `tail64_masked`. -/
theorem tail64Rule : Obligations.Tail64Rule := by
  refine ⟨fun n hn => ?_, fun n => overruns_all _, fun n h8 h15 => ?_, fun n h8 s hb => ?_, fun s hb => ?_,
    fun n _ h w w' hw => tail64_congr h hw, fun n hpos _ h w => tail64_masked hpos h w, fun s hb hacc hdata => ?_⟩
  · have hw : (Instr.tail64 n).wellFormed = true := decide_eq_true hn
    exact ⟨decodeOfEncode (.tail64 n) hw, completes_execResult hw rfl⟩
  · have fields : ∀ n < 16, ((0x0B : Word) ||| BitVec.ofNat 32 n <<< 4).extractLsb' 0 4 = 0xB ∧
        (((0x0B : Word) ||| BitVec.ofNat 32 n <<< 4).extractLsb' 4 4).toNat = n := by decide
    obtain ⟨hop, hcount⟩ := fields n (by omega)
    exact (illegalCommandWords _).2 (.inr (.inr (.inr (.inr ⟨hop, hcount.symm ▸ h8⟩))))
  · exact exec_illFormed hb (decide_eq_false (by omega))
  · exact afterCommand_tail64_acc hb (Nat.zero_le 7)
  · have hmasked : s.data &&& mask64 7 = 0x1122334455667788 &&& mask64 7 := by
      rcases hdata with h | h
      · rw [h]
      · rw [h]; decide
    rw [afterCommand_tail64_acc hb (Nat.le_refl 7), hacc, tail64_congr 0 hmasked]
    decide

/-- Settles O25. -/
theorem final64Rule : Obligations.Final64Rule := by
  refine ⟨decodeOfEncode .final64 rfl, completes_execResult rfl rfl, overruns_all .final64, fun s hb hacc => ?_,
    fmix64_bijective, fun s hb hacc => ?_⟩
  · rw [afterCommand_final64_acc hb, hacc, fmix64_zero]
  · rw [afterCommand_final64_acc hb, hacc]
    decide

/-- Settles O26: acceptance, RANGE and the dirtied buffer are those of both HASH commands; the digest is R136 at the
length's corners. -/
theorem hash64Rule : Obligations.Hash64Rule := by
  refine ⟨decodeOfEncode .hash64 rfl, hashCompletes_execResult rfl, overruns_all .hash64, rangeChecked_of_isHash rfl,
    fun s a b hb hsize hlo hhi => ?_, bufferHash64_empty, fun m a len seed => bufferHash64_of_lt_eight m a seed,
    fun m a len seed => bufferHash64_of_mod_eight m a seed, fun m a => ?_, fun m a h₀ h₁ h₂ h₃ h₄ => ?_⟩
  · obtain ⟨t, u, hexec, hwrite, herr, hwidth, hengine⟩ := hash_dirtied (i := .hash64) rfl s b hb hsize hlo hhi
    refine ⟨t, u, hexec, hwrite, herr, ?_⟩
    rw [hengine, finishDrawn_m64 hwidth]
  · rw [bufferHash64_empty, fmix64_zero]
  · have hbytes : memRead m a (5 : Word).toNat = 0x0504030201 := by
      rw [show (5 : Word).toNat = 5 from rfl]
      simp [h₀, h₁, h₂, h₃, h₄]
    rw [bufferHash64_of_lt_eight m a 0 (by decide), hbytes]
    decide

/-- Settles O35: each command of the sequence leaves in ACC what the next one reads (`feedWords64_acc`). -/
theorem hash64IsItsPrimitives : Obligations.Hash64IsItsPrimitives := by
  intro s hb hr
  refine ⟨afterCommand_busy _ _, ?_⟩
  have hfed : (afterData (memRead s.kmem (s.addr.toNat + 8 * (s.len.toNat / 8)) (s.len.toNat % 8))
      (feedWords64 s.kmem s.addr.toNat (s.len.toNat / 8) (afterCommand .init64 s))).busy = false :=
    (afterData_busy _ _).trans (feedWords64_busy _ _ _ (afterCommand_busy _ _))
  have hcount : s.len.toNat % 8 ≤ 7 := by omega
  calc (primitives64 s).acc
      = fmix64 (tail64 (foldWords64 s.kmem s.addr.toNat (init64 s.seed s.len) (s.len.toNat / 8))
          (memRead s.kmem (s.addr.toNat + 8 * (s.len.toNat / 8)) (s.len.toNat % 8)) (s.len.toNat % 8)) := by
        rw [primitives64, afterCommand_final64_acc (afterCommand_busy _ _), afterCommand_tail64_acc hfed hcount,
          afterData_acc, afterData_data, feedWords64_acc _ _ _ (afterCommand_busy _ _), afterCommand_init64_acc hb]
    _ = execResult .hash64 s := (execResult_hash64 s).symm
    _ = (afterCommand .hash64 s).acc := (afterCommand_hash_acc rfl hb hr).symm

/-- Settles O37: the digest is a function of the seed, the length and the buffer's bytes (`bufferHash64_congr`). -/
theorem hash64Determinism : Obligations.Hash64Determinism := by
  intro s t hseed hlen hread
  rw [execResult_hash64, execResult_hash64, bufferHash64_congr s.seed hread, hlen, hseed]

/-- Settles O22. -/
theorem init64Rule : Obligations.Init64Rule := by
  refine ⟨decodeOfEncode .init64 rfl, completes_execResult rfl rfl, overruns_all .init64, fun s hb hlen => ?_,
    fun s hb hlen hseed => ?_, fun s hb hlen hseed => ?_, fun s hb hseed hlen => ?_⟩
  · rw [afterCommand_init64_acc hb, hlen, init64_len_zero]
  all_goals
    rw [afterCommand_init64_acc hb, hlen, hseed]
    decide

/-- Settles O23. -/
theorem word64Rule : Obligations.Word64Rule := by
  refine ⟨decodeOfEncode .word64 rfl, completes_execResult rfl rfl, overruns_all .word64, fold64_word_zero,
    fold64_acc_zero, fun s hb hacc hdata => ?_, fun s hb hacc hdata => ?_⟩
  · rw [afterCommand_word64_acc hb, hacc, hdata]
    decide
  · rw [afterCommand_word64_acc hb, hacc, hdata, fold64_word_zero]
    decide

end

/-! ### Proofs: the errors of STATUS (60_exceptions.md) -/

section
namespace Sys2Proof.Machine

/-- The first error since the last clear records its code. -/
theorem raiseError_of_clean (e : ErrorCode) {s : State} (h : s.err = false) :
    raiseError e s = { s with err := true, errCode := e.code } := by
  rw [raiseError, if_neg (Bool.eq_false_iff.1 h)]

/-- A later error leaves the code as it is. -/
theorem raiseError_of_err (e : ErrorCode) {s : State} (h : s.err = true) : raiseError e s = { s with err := true } := by
  rw [raiseError, if_pos h]

/-- STATUS still shows the error that `s` shows: ERR is 1 and ERRCODE has not changed. -/
def ErrorKept (s t : State) : Prop := t.err = true ∧ t.errCode = s.errCode

/-- A move that touches neither ERR nor ERRCODE keeps the error. -/
theorem errorKept_of_eq {s t : State} (hs : s.err = true) (he : t.err = s.err) (hc : t.errCode = s.errCode) :
    ErrorKept s t := ⟨he.trans hs, hc⟩

theorem raiseError_errorKept (e : ErrorCode) {s : State} (hs : s.err = true) : ErrorKept s (raiseError e s) := by
  rw [raiseError_of_err e hs]
  exact ⟨rfl, rfl⟩

/-- A CMD write clears no error: it raises one, which keeps the first code, or issues a command. -/
theorem CmdOutcome.errorKept {v : Word} {s t : State} (h : CmdOutcome v s t) (hs : s.err = true) : ErrorKept s t := by
  cases h with
  | overrun | illegal => exact raiseError_errorKept _ hs
  | issued i _ _ _ hx =>
    rcases (exec_next hx).raised_or_issued with ⟨e, rfl⟩ | ⟨-, rfl⟩
    · exact raiseError_errorKept e hs
    · exact errorKept_of_eq hs rfl rfl

/-- The only register write that clears an error is one of STATUS with bit 1 = 1 (R155). -/
theorem WriteOutcome.errorKept_or_clears {offset : Nat} {v : Word} {s t : State} (h : WriteOutcome offset v s t)
    (hs : s.err = true) : ErrorKept s t ∨ (offset = 0x04 ∧ v.getLsbD 1 = true) := by
  cases h with
  | cmd _ _ hc => exact .inl (hc.errorKept hs)
  | status ho =>
    by_cases hv : v.getLsbD 1 = true
    · exact .inr ⟨ho, hv⟩
    · rw [writeStatus, if_neg hv]
      exact .inl (errorKept_of_eq hs rfl rfl)
  | seedLo | seedHi | len | addr | dataLo | dataHi | ignored => exact .inl (errorKept_of_eq hs rfl rfl)

/-- The only host action that clears an error is the write of STATUS with bit 1 = 1. -/
theorem HostOutcome.errorKept_or_clears {act : HostAction} {s t : State} (h : HostOutcome s act t)
    (hs : s.err = true) : ErrorKept s t ∨ ∃ v : Word, act = .csrWrite 0x04 v ∧ v.getLsbD 1 = true := by
  cases h with
  | csrWrite _ v _ _ _ hw =>
    rcases hw.errorKept_or_clears hs with hkept | ⟨rfl, hv⟩
    · exact .inl hkept
    · exact .inr ⟨v, rfl, hv⟩
  | csrRead | kmemWrite | kmemRead | pollAgain | pollDone => exact .inl (errorKept_of_eq hs rfl rfl)

end Sys2Proof.Machine

open Sys2Proof Sys2Proof.Machine

/-- Settles O43: of all moves only reset, power-on and the host's write of STATUS with bit 1 = 1 clear an error. -/
theorem errorIsSticky : Obligations.ErrorIsSticky := by
  intro s t hs h
  cases step_outcome h with
  | engine => exact .inl (errorKept_of_eq hs (engineStep_err _) (engineStep_errCode _))
  | reset hn => exact .inr (.inl hn)
  | powerOn hn => exact .inr (.inr (.inl hn))
  | hostOver => exact .inl (errorKept_of_eq hs rfl rfl)
  | host act rest _ hn hp ho =>
    rcases ho.errorKept_or_clears hs with hkept | ⟨v, rfl, hv⟩
    · exact .inl hkept
    · exact .inr (.inr (.inr ⟨v, hostTurnAction_of_program hn hp, hv⟩))

/-- Settles O42: the recorded code is `ErrorCode.code`, which the statement writes out. -/
theorem raiseKeepsFirstError : Obligations.RaiseKeepsFirstError := by
  intro s e
  refine ⟨fun h => ?_, raiseError_of_err e⟩
  rw [raiseError_of_clean e h]
  cases e <;> rfl

end

/-! ### Proofs: reset, power-on and what a clean ERR proves (70_reset_and_hazards.md) -/

section
namespace Sys2Proof.Machine

theorem hostTurnAction_eq_some {s : State} {a : HostAction} (h : hostTurnAction s = some a) :
    nextAgent s = .host ∧ ∃ rest, s.program = a :: rest := by
  unfold hostTurnAction at h
  split at h
  · exact ⟨‹_›, List.head?_eq_some_iff.1 h⟩
  · cases h

/-- The step in which the host writes CMD is `writeCmd`, its turn and its action used up. -/
theorem step_writeCmd {s : State} {v : Word} (h : hostTurnAction s = some (.csrWrite 0x00 v)) :
    ∃ rest, step s = writeCmd v { s with schedule := s.schedule.tail, program := rest } := by
  obtain ⟨hn, rest, hp⟩ := hostTurnAction_eq_some h
  exact ⟨rest, (step_host hn hp).trans (hostAction_csrWrite v _ (csrAt_offset .cmd))⟩

/-- The inversion of `writeCmd`. -/
theorem writeCmd_next {v : Word} {s t : State} (h : writeCmd v s = .next t) : CmdOutcome v s t := by
  obtain ⟨t', h', ho⟩ := writeCmd_outcome v s
  cases h.symm.trans h'
  exact ho

/-- A CMD write after which ERR = 0 raised no error, so it issued the command of its word (R175). -/
theorem CmdOutcome.issued_of_clean {v : Word} {s t : State} (h : CmdOutcome v s t) (ht : t.err = false) :
    s.busy = false ∧ ∃ i, decode v = .ok i ∧ t = Machine.issued i s := by
  cases h with
  | overrun | illegal => cases ht
  | issued i _ hb hd hx =>
    rcases (exec_next hx).raised_or_issued with ⟨e, rfl⟩ | ⟨-, rfl⟩
    · cases ht
    · exact ⟨hb, i, hd, rfl⟩

/-- A memory that lists no cell reads as its power-on draw everywhere (R51). -/
theorem Memory.read_of_empty (size image a : Nat) :
    (Memory.mk size image []).read a = BitVec.ofNat 8 (image >>> (8 * a)) := rfl

/-- KMEM_SIZE is a legal size, whatever the platform draws (R6). -/
theorem kmemSize_legal : 1 ≤ Config.kmemSize ∧ Config.kmemSize ≤ 2 ^ 32 :=
  ⟨Nat.succ_pos _, Config.kmemLastAddress.isLt⟩

/-- The invariant holds of the reset state, the base case of `stepKeepsInvariant`. -/
theorem reset_inv : State.reset.Inv := by
  obtain ⟨hpos, hle⟩ := kmemSize_legal
  exact ⟨Memory.wf_of_empty _ _ hpos hle, ⟨Nat.zero_le _, fun _ => rfl⟩, pendingLegal_of_idle rfl⟩

end Sys2Proof.Machine

open Sys2Proof Sys2Proof.Machine

/-- Settles O44: the step is a CMD write, and one that raises no error has issued its command. -/
theorem cleanErrorProvesAcceptance : Obligations.CleanErrorProvesAcceptance := by
  intro s t v hact hstep hclean
  obtain ⟨rest, hw⟩ := step_writeCmd hact
  obtain ⟨hidle, i, hdec, rfl⟩ := (writeCmd_next (hw.symm.trans hstep)).issued_of_clean hclean
  exact ⟨hidle, rfl, i, hdec⟩

/-- Settles O51: the reset move is `resetBlock`, after which nothing is pending, so the engine's move passes. -/
theorem resetRule : Obligations.ResetRule := fun s =>
  ⟨resetBlock s, rfl, rfl, engineStep_idle (resetBlock_busy s)⟩

/-- Settles O52: power-on leaves a KMEM that lists no cell over a fresh image. -/
theorem powerOnRule : Obligations.PowerOnRule := fun s =>
  ⟨powerOnBlock s, rfl, rfl, rfl, powerOnBlock_draws s, Memory.read_of_empty s.kmem.size (Config.powerOnImage s.draws)⟩

/-- Settles O53: the fields are those of `State.reset` as written, and its run is over, so a step changes nothing. -/
theorem resetStateIsIdle : Obligations.ResetStateIsIdle :=
  ⟨rfl, rfl, rfl, rfl, rfl, rfl, rfl, rfl, rfl, rfl, finishedRunStays State.reset rfl rfl, reset_inv⟩

end
